-- ==== Sys2Proof/Word.lean ====
section
/-! DEFINITION. The word types of RDT-CE (spec R7: a byte is 8 bits, `u16` and `u32` are unsigned). -/

namespace Sys2Proof

/-- One byte of a datagram, of the source or of a sink (R7). -/
abbrev Byte := BitVec 8

/-- A `u16` field (R7): connection ids and packet flags. -/
abbrev Word16 := BitVec 16

/-- A `u32` field (R7): sequence numbers, source offsets, host register contents. -/
abbrev Word32 := BitVec 32

end Sys2Proof
end

