-- ==== Sys2Proof/Config.lean ====
section
/-! DEFINITION. The parameters of RDT-CE (spec 00_scope.md R5, R6) and the straps sampled at reset (R52, R352). -/

namespace Sys2Proof

namespace Config

/-- What a source byte that no list entry names reads as. DESIGN CHOICE, unsafe: the spec leaves the source bytes
to the environment (U7); log 3. -/
def srcFill : Byte := 0

end Config

/-- The role strap's two values (R52): `ROLE = 0` is the initiator engine, `ROLE = 1` the responder engine. -/
inductive Role where
  | initiator
  | responder
deriving DecidableEq, Repr

/-- The parameters of R5, each a configuration field with the spec's name in its comment (`MAX_DGRAM` is a sum of two of
them, `ROLE` a field of `Straps`; log 4); deadlines are in milliseconds and are used in ticks (`T_x / TICK_MS`). -/
structure Params where
  /-- `HDR_LEN` -/
  hdrLen : Nat
  /-- `FLAG_FIN` -/
  flagFin : Word16
  /-- `FLAG_SYN` -/
  flagSyn : Word16
  /-- `FLAG_ACK` -/
  flagAck : Word16
  /-- `MAX_PAYLOAD` -/
  maxPayload : Nat
  /-- `MAX_SEQ` -/
  maxSeq : Nat
  /-- `N_SLOTS` -/
  nSlots : Nat
  /-- `T_ROUND` -/
  tRoundMs : Nat
  /-- `T_ABORT` -/
  tAbortMs : Nat
  /-- `T_LINGER` -/
  tLingerMs : Nat
  /-- `T_INACT` -/
  tInactMs : Nat
  /-- `MAX_XFER` -/
  maxXfer : Nat
  /-- `CHUNK` -/
  chunk : Nat
  /-- `TICK_MS` -/
  tickMs : Nat
  /-- `NOW_W` -/
  nowW : Nat
  /-- `PEER_ADDR_W` -/
  peerAddrW : Nat
  /-- `RSP_FIN_FLAGS` -/
  rspFinFlags : Word16
  /-- `ABORT_IN_ESTABLISHED` -/
  abortInEstablished : Bool
deriving DecidableEq, Repr

/-- The default of every parameter (the second column of R5's table). -/
def Params.default : Params where
  hdrLen := 12
  flagFin := 1
  flagSyn := 2
  flagAck := 4
  maxPayload := 512
  maxSeq := 25600
  nSlots := 20
  tRoundMs := 500
  tAbortMs := 10000
  tLingerMs := 2000
  tInactMs := 10000
  maxXfer := 10485760
  chunk := 512
  tickMs := 1
  nowW := 64
  peerAddrW := 48
  rspFinFlags := 5
  abortInEstablished := false

/-- What is sampled at `E_RESET` and constant until the next one: the role strap and the parameters (R352). -/
structure Straps where
  role : Role
  params : Params
deriving DecidableEq, Repr

end Sys2Proof
end

