-- ==== Sys2Proof/Syntax.lean ====
section
/-! DEFINITION. Packets, packet kinds and the instructions of RDT-CE: one constructor per row of
spec/opcode_table.json (30_encoding.md R100 to R107). -/

namespace Sys2Proof

/-- A packet (R131): the four header fields and the payload bytes in wire order. -/
structure Packet where
  seq : Word32
  ack : Word32
  connId : Word16
  flags : Word16
  payload : List Byte
deriving DecidableEq, Repr

/-- The kind of a packet (R106); `rsvd` is every flags value the document does not list (R108). -/
inductive Kind where
  | data
  | fin
  | syn
  | ack
  | finack
  | synack
  | rsvd
deriving DecidableEq, Repr

/-- The instructions of RDT-CE: a received packet of one of the six listed kinds, with its operands `seq`, `ack`,
`connection_id` and payload (R144 to R149). A packet of a reserved kind is no instruction: decoding refuses it by name
and the receive path drops it (R150). -/
inductive Instr where
  /-- DATA, flags 0 (R144) -/
  | data (seq ack : Word32) (connId : Word16) (payload : List Byte)
  /-- FIN, flags 1 (R145) -/
  | fin (seq ack : Word32) (connId : Word16) (payload : List Byte)
  /-- SYN, flags 2 (R146) -/
  | syn (seq ack : Word32) (connId : Word16) (payload : List Byte)
  /-- ACK, flags 4 (R147) -/
  | ack (seq ack : Word32) (connId : Word16) (payload : List Byte)
  /-- FINACK, flags 5 (R148) -/
  | finack (seq ack : Word32) (connId : Word16) (payload : List Byte)
  /-- SYNACK, flags 6 (R149) -/
  | synack (seq ack : Word32) (connId : Word16) (payload : List Byte)
deriving DecidableEq, Repr

end Sys2Proof
end

