-- ==== Sys2Proof/WellFormed.lean ====
section
/-! DEFINITION. Well-formed parameters (spec 00_scope.md R6, 70_reset_and_hazards.md R368) and well-formed packets
(30_encoding.md R100: a payload of at most `MAX_PAYLOAD` bytes). -/

namespace Sys2Proof

/-- A flag bit value (R5, R102): exactly one bit of the flags field is 1. -/
abbrev FlagBit (w : Word16) : Prop := ∃ i : Fin 16, w = BitVec.twoPow 16 i

/-- The constraints between parameters. R6 gives `1 <= N_SLOTS <= 65535`, `MAX_PAYLOAD <= MAX_SEQ - 1`,
`T_ROUND < T_ABORT` and `CHUNK = MAX_PAYLOAD`; R5 gives the two legal values of `RSP_FIN_FLAGS` (FIN, FIN and ACK); R368
bounds `NOW_W` from below for the initiator. DESIGN CHOICE, unsafe (log 19): the bound on `NOW_W` is asked of a
responder too, for which R368 gives none. The rest is DEDUCED (log 19, and log 4 for the header and the flags): a payload
holds a byte, sequence numbers fit their u32 field (R34), `MAX_XFER < 2^32` (R151), a tick lasts some time (R50), the
header is the four fields of R101 and nothing else (R100), and the three flags are three single bits (R102). -/
abbrev Params.Wf (p : Params) : Prop :=
  1 ≤ p.nSlots ∧ p.nSlots ≤ 65535 ∧
  1 ≤ p.maxPayload ∧ p.maxPayload + 1 ≤ p.maxSeq ∧ p.maxSeq ≤ 2 ^ 32 ∧
  p.tRoundMs < p.tAbortMs ∧ p.chunk = p.maxPayload ∧ p.maxXfer < 2 ^ 32 ∧
  1 ≤ p.tickMs ∧ 2 * (p.tAbortMs / p.tickMs) < 2 ^ p.nowW ∧
  (p.rspFinFlags = p.flagFin ∨ p.rspFinFlags = p.flagFin ||| p.flagAck) ∧
  p.hdrLen = 12 ∧ FlagBit p.flagFin ∧ FlagBit p.flagSyn ∧ FlagBit p.flagAck ∧
  p.flagFin ≠ p.flagSyn ∧ p.flagFin ≠ p.flagAck ∧ p.flagSyn ≠ p.flagAck

/-- The payload of an instruction. -/
def Instr.payload : Instr → List Byte
  | .data _ _ _ b => b
  | .fin _ _ _ b => b
  | .syn _ _ _ b => b
  | .ack _ _ _ b => b
  | .finack _ _ _ b => b
  | .synack _ _ _ b => b

/-- A packet is well formed when its payload fits `MAX_PAYLOAD` (R100, R131). The four header fields take every value
(R111, R134). -/
abbrev Instr.Wf (maxPayload : Nat) (i : Instr) : Prop :=
  i.payload.length ≤ maxPayload

end Sys2Proof
end

