-- ==== Sys2Proof/Decode.lean ====
section
/-! DEFINITION. The packet codec (spec 30_encoding.md, 40_codec.md): `DECODE` and `kind`, the decoder of an
instruction, and after them `ENCODE` and the encoder. -/

namespace Sys2Proof

/-- `BE16(x, y)` of R7: the first byte is the most significant. -/
def joinBe16 (x y : Byte) : Word16 := x ++ y

/-- `BE32(w, x, y, z)` of R7. -/
def joinBe32 (w x y z : Byte) : Word32 := w ++ x ++ y ++ z

/-- `be16(v)` of R7: the two bytes of `v`, most significant first. -/
def splitBe16 (v : Word16) : List Byte := [v.extractLsb' 8 8, v.extractLsb' 0 8]

/-- `be32(v)` of R7: the four bytes of `v`, most significant first. -/
def splitBe32 (v : Word32) : List Byte :=
  [v.extractLsb' 24 8, v.extractLsb' 16 8, v.extractLsb' 8 8, v.extractLsb' 0 8]

/-- The four header fields at the offsets of R77 and R101; `none` when the bytes end inside them. `payload` is what the
caller takes the datagram's payload to be. -/
def readHeader (payload : List Byte) : List Byte → Option Packet
  | d0 :: d1 :: d2 :: d3 :: d4 :: d5 :: d6 :: d7 :: d8 :: d9 :: d10 :: d11 :: _ =>
    some
      { seq := joinBe32 d0 d1 d2 d3
        ack := joinBe32 d4 d5 d6 d7
        connId := joinBe16 d8 d9
        flags := joinBe16 d10 d11
        payload := payload }
  | _ => none

/-- `DECODE(d, n)` of R133: `none` is `FormatError`, exactly for a datagram of fewer than `HDR_LEN` bytes (R315);
nothing else is checked (R134). The payload is every byte after the header (R104). It undoes `encodePacket` and is
injective (R135). -/
def decodePacket (q : Params) (d : List Byte) : Option Packet :=
  if d.length < q.hdrLen then none else readHeader (d.drop q.hdrLen) d

/-- The flags value of DATA (R106): no flag. -/
def flagsData : Word16 := 0

/-- The flags value of FIN (R106). -/
def flagsFin (q : Params) : Word16 := q.flagFin

/-- The flags value of SYN (R106). -/
def flagsSyn (q : Params) : Word16 := q.flagSyn

/-- The flags value of ACK (R106). -/
def flagsAck (q : Params) : Word16 := q.flagAck

/-- The flags value of FINACK (R106): FIN and ACK. -/
def flagsFinAck (q : Params) : Word16 := q.flagFin ||| q.flagAck

/-- The flags value of SYNACK (R106): SYN and ACK. -/
def flagsSynAck (q : Params) : Word16 := q.flagSyn ||| q.flagAck

/-- `kind(flags)` of R107: equality of the whole 16-bit value, never a mask test. -/
def kindOf (q : Params) (flags : Word16) : Kind :=
  if flags = flagsData then .data
  else if flags = flagsFin q then .fin
  else if flags = flagsSyn q then .syn
  else if flags = flagsAck q then .ack
  else if flags = flagsFinAck q then .finack
  else if flags = flagsSynAck q then .synack
  else .rsvd

/-- `CLASSIFY` of R136: the instruction a packet is, `none` for a packet of a reserved kind (R108). -/
def classifyPacket (q : Params) (p : Packet) : Option Instr :=
  match kindOf q p.flags with
  | .data => some (.data p.seq p.ack p.connId p.payload)
  | .fin => some (.fin p.seq p.ack p.connId p.payload)
  | .syn => some (.syn p.seq p.ack p.connId p.payload)
  | .ack => some (.ack p.seq p.ack p.connId p.payload)
  | .finack => some (.finack p.seq p.ack p.connId p.payload)
  | .synack => some (.synack p.seq p.ack p.connId p.payload)
  | .rsvd => none

/-- Why a datagram is no instruction: the truncated header of R110, or a reserved flags value (R108; DEDUCED, safe:
log 15). -/
inductive DecodeError where
  | truncatedHeader
  | reservedFlags (flags : Word16)
deriving DecidableEq, Repr

/-- Decoding of any byte sequence under the parameters `q`: an instruction, or a rejection by name. -/
def decode (q : Params) (d : List Byte) : Except DecodeError Instr :=
  match decodePacket q d with
  | none => .error .truncatedHeader
  | some p =>
    match classifyPacket q p with
    | none => .error (.reservedFlags p.flags)
    | some i => .ok i

/-- The packet an instruction stands for, with the flags value of its row in the opcode table (R106). -/
def instrPacket (q : Params) : Instr → Packet
  | .data s a c b => { seq := s, ack := a, connId := c, flags := flagsData, payload := b }
  | .fin s a c b => { seq := s, ack := a, connId := c, flags := flagsFin q, payload := b }
  | .syn s a c b => { seq := s, ack := a, connId := c, flags := flagsSyn q, payload := b }
  | .ack s a c b => { seq := s, ack := a, connId := c, flags := flagsAck q, payload := b }
  | .finack s a c b => { seq := s, ack := a, connId := c, flags := flagsFinAck q, payload := b }
  | .synack s a c b => { seq := s, ack := a, connId := c, flags := flagsSynAck q, payload := b }

/-- The four header fields of R101 in order, then the payload: the byte layout `ENCODE` writes (R131). -/
def packetBytes (p : Packet) : List Byte :=
  splitBe32 p.seq ++ splitBe32 p.ack ++ splitBe16 p.connId ++ splitBe16 p.flags ++ p.payload

/-- `ENCODE(p)` of R131 with the refusal of R132 (`none`) for a payload longer than `MAX_PAYLOAD`. It undoes
`decodePacket` and is injective (R135). -/
def encodePacket (maxPayload : Nat) (p : Packet) : Option (List Byte) :=
  if p.payload.length ≤ maxPayload then some (packetBytes p) else none

/-- The datagram of a well-formed instruction under the parameters `q`. -/
def encode (q : Params) (i : Instr) : List Byte := packetBytes (instrPacket q i)

/-- The twelve header bytes of the 96-bit header word `H` of R7 (`H[95:88]` is `d[0]`, `H[7:0]` is `d[11]`), `H` being
the low `nbits` bits of `w` and zero above them. The payload is empty: the table gives it no bits (log 9). -/
def headerWordBytes (nbits w : Nat) : List Byte :=
  let h : BitVec 96 := BitVec.ofNat 96 (w % 2 ^ nbits)
  [h.extractLsb' 88 8, h.extractLsb' 80 8, h.extractLsb' 72 8, h.extractLsb' 64 8,
   h.extractLsb' 56 8, h.extractLsb' 48 8, h.extractLsb' 40 8, h.extractLsb' 32 8,
   h.extractLsb' 24 8, h.extractLsb' 16 8, h.extractLsb' 8 8, h.extractLsb' 0 8]

/-- The instruction the decoder reads from a header word numbered as spec/opcode_table.json numbers it (R7, R106), under
the default parameters of R5, for which the table is written. -/
def decodeTableWord (nbits w : Nat) : Option Instr :=
  match decode Params.default (headerWordBytes nbits w) with
  | .ok i => some i
  | .error _ => none

end Sys2Proof
end

