-- ==== Sys2Proof/Machine/State.lean ====
section
/-! DEFINITION. The state of RDT-CE (spec 10_state.md R20 to R58), the requests pending at its ports
(60_exceptions.md R321), the environment of the run, the two stop types and the state after reset. -/

namespace Sys2Proof.Machine

/-- `C.state` (R24); the encodings 0 to 5 are in `ConnState.code`. -/
inductive ConnState where
  | idle
  | synSent
  | established
  | finSent
  | linger
  | closed
deriving DecidableEq, Repr

/-- `C.result` (R31, R320); the codes 0 to 4 are in `Result.code`. -/
inductive Result where
  | ok
  | errTransport
  | errPeerUnresponsive
  | errTeardownNotAcked
  | errOversize
deriving DecidableEq, Repr

/-- The sticky bits of R55; the bit numbers are in `StickyBit.index`. -/
inductive StickyBit where
  | malformed
  | rsvdFlags
  | tblFull
  | lookupMiss
  | rxErr
  | encLen
  | rxTrunc
  | slotAbort
deriving DecidableEq, Repr

/-- What `Tx` returns (R284, R285). -/
inductive TxResult where
  | ok
  | fail
deriving DecidableEq, Repr

/-- The initiator connection record `C` (R23 to R32). `peerAddr` is below `2^PEER_ADDR_W` and the two time stamps below
`2^NOW_W`; the widths are parameters (R5), so these three are natural numbers (DEDUCED, safe:
log 5). -/
structure Conn where
  state : ConnState
  result : Result
  connId : Word16
  peerAddr : Nat
  localSeq : Word32
  peerAckExpected : Word32
  srcLen : Word32
  lastActivity : Nat
  lingerStart : Nat
deriving DecidableEq, Repr

/-- The pending-send record `P` (R33). -/
structure PendingSend where
  valid : Bool
  seq : Word32
  ack : Word32
  sendTime : Nat
  sourceOffset : Word32
deriving DecidableEq, Repr

/-- One slot `S[i]` of the responder connection table (R41 to R48). -/
structure Slot where
  inUse : Bool
  connId : Word16
  peerAddr : Nat
  seq : Word32
  ack : Word32
  finObserved : Bool
  sinkOpen : Bool
  lastActivity : Nat
deriving DecidableEq, Repr

/-- A packet register set, `RXP` (R21) or `TXP` (R22). `payload` holds the meaningful bytes; the tail of the buffer,
which nothing reads, is not held (DEDUCED, safe: log 10). -/
structure PacketReg where
  seq : Word32
  ack : Word32
  connId : Word16
  flags : Word16
  len : Nat
  payload : List Byte
  peer : Nat
  n : Nat
deriving DecidableEq, Repr

/-- A source of answers from the environment: `front` in order, then `rest` for ever (any
sequence of answers a finite run sees is some feed: log 8). -/
structure Feed (α : Type) where
  front : List α
  rest : α
deriving DecidableEq, Repr

/-- One datagram waiting at the RX port with its sender's address (R281). -/
structure Datagram where
  bytes : List Byte
  peer : Nat
deriving DecidableEq, Repr

/-- One thing the environment does at the ports of R280 between two events. -/
inductive PortAct where
  /-- the strap pins take a level (R352) -/
  | strap (st : Straps)
  /-- the reset input is asserted (R350) -/
  | reset
  /-- the receive primitive reports failure (R283) -/
  | rxErr
  /-- a datagram arrives at the RX port (R281) -/
  | rx (d : Datagram)
  /-- a pulse on the tick input (R293) -/
  | tick
  /-- the host writes a register (R294) -/
  | hostWrite (number : Nat) (value : Word32)
  /-- the host changes a byte of the source (R353 (2), R365) -/
  | srcWrite (offset : Word32) (byte : Byte)
deriving DecidableEq, Repr

/-- One externally visible operation of RDT-CE (R11, R280). -/
inductive PortOp where
  /-- `Tx(d, dest)` (R284) -/
  | tx (d : List Byte) (dest : Nat)
  /-- `SinkOpen(id)` (R290) -/
  | sinkOpen (id : Word16)
  /-- `SinkWrite(id, bytes)` (R289) -/
  | sinkWrite (id : Word16) (bytes : List Byte)
  /-- `SinkFlush(id)` (R291) -/
  | sinkFlush (id : Word16)
  /-- `SinkClose(id)` (R291) -/
  | sinkClose (id : Word16)
  /-- `SrcRead(off, len)` (R287) -/
  | srcRead (off len : Nat)
deriving DecidableEq, Repr

/-- The source byte space of R70 (2) as address and byte pairs; `Memory.wf` is its canonical form. -/
abbrev Memory := List Host.Cell

/-- What stands at the ports: the requests raised (R321), and the environment of the run (DEDUCED: log 6). Waiting
datagrams, starts and tick pulses are held until served; the reset input and a receive failure are not pended. -/
structure Ports where
  /-- the level of the strap pins -/
  strap : Straps
  /-- the reset input is asserted -/
  resetReq : Bool
  /-- the RX port reports a receive failure; it is served in the step that sees it or lost (R321: not pended) -/
  rxErr : Bool
  /-- datagrams waiting, in receipt order -/
  rx : List Datagram
  /-- `CTRL.START` writes not yet served -/
  start : Nat
  /-- tick pulses not yet served -/
  ticks : Nat
  /-- the source bytes -/
  src : Memory
  /-- what `RngDraw()` answers -/
  draws : Feed Word16
  /-- what `Tx` answers -/
  txResults : Feed TxResult
  /-- what the environment does, one list of actions a turn -/
  script : List (List PortAct)
  /-- every visible operation so far, oldest first (R11; DEDUCED, safe: log 16) -/
  trace : List PortOp
deriving DecidableEq, Repr

/-- The state of one RDT-CE instance and of what stands at its ports. -/
structure State where
  /-- the role and the parameters sampled at the last reset (R52, R352) -/
  straps : Straps
  /-- the tick counter (R50), below `2^NOW_W` -/
  now : Nat
  /-- the sticky status bits (R55) -/
  sticky : Word32
  /-- the initiator connection record (R23) -/
  c : Conn
  /-- the pending-send record (R33) -/
  p : PendingSend
  /-- the responder connection table `S` (R40) -/
  slots : List Slot
  /-- the received-packet register set (R21) -/
  rxp : PacketReg
  /-- the transmit-packet register set (R22) -/
  txp : PacketReg
  /-- the ports (R280) -/
  io : Ports
deriving DecidableEq, Repr

/-- Why the machine stops. It has no constructor: no condition makes RDT-CE halt, hang or become undefined (R10),
and every abnormal condition is handled inside the machine (R310). -/
inductive Fault where
deriving DecidableEq, Repr

/-- Why an instruction has no meaning. -/
inductive Refusal where
  /-- Raised by an arm of `exec` whose instruction has no meaning yet; safe, since nothing follows from it. No arm of
  this model raises it. -/
  | notModelled (mnemonic : String)
deriving DecidableEq, Repr

/-- One event of R9, as the arbiter hands it over. -/
inductive Event where
  | reset
  | rxErr
  | rx (d : Datagram)
  | start
  | tick
deriving DecidableEq, Repr

/-- What serving the pending requests comes to: the event was handled to its end without an instruction, or a received
packet is to be executed. -/
inductive Fetched where
  | done (s : State)
  | run (i : Instr) (s : State)
deriving DecidableEq, Repr

/-- The role in force (R52). -/
def State.role (s : State) : Role := s.straps.role

/-- The parameters in force (R352). -/
def State.params (s : State) : Params := s.straps.params

/-- `C` after reset (R58). -/
def Conn.zero : Conn where
  state := .idle
  result := .ok
  connId := 0
  peerAddr := 0
  localSeq := 0
  peerAckExpected := 0
  srcLen := 0
  lastActivity := 0
  lingerStart := 0

/-- `P` after reset (R58). -/
def PendingSend.zero : PendingSend where
  valid := false
  seq := 0
  ack := 0
  sendTime := 0
  sourceOffset := 0

/-- A free slot: every field 0 (R49, R58, R247). -/
def Slot.free : Slot where
  inUse := false
  connId := 0
  peerAddr := 0
  seq := 0
  ack := 0
  finObserved := false
  sinkOpen := false
  lastActivity := 0

/-- A packet register set after reset. The spec leaves it unspecified and never reads it (R58, R351); zero is a DESIGN
CHOICE, unsafe: log 2. -/
def PacketReg.zero : PacketReg where
  seq := 0
  ack := 0
  connId := 0
  flags := 0
  len := 0
  payload := []
  peer := 0
  n := 0

/-- The straps of `State.reset`: the responder engine with the default parameters. DESIGN CHOICE, unsafe (log 1):
the spec samples both from outside the block (R52, R352). -/
def Straps.atReset : Straps where
  role := .responder
  params := Params.default

/-- Ports at which nothing is pending and the environment does nothing. What the feeds and the source bytes hold is a
DESIGN CHOICE, unsafe: log 3, log 6, log 8. -/
def Ports.quiet (st : Straps) : Ports where
  strap := st
  resetReq := false
  rxErr := false
  rx := []
  start := 0
  ticks := 0
  src := []
  draws := { front := [], rest := 0 }
  txResults := { front := [], rest := .ok }
  script := []
  trace := []

/-- Every piece of the block's own state at its reset value, with the sampled straps `st` (R58, R350, R352). -/
def State.resetWith (st : Straps) (io : Ports) : State where
  straps := st
  now := 0
  sticky := 0
  c := Conn.zero
  p := PendingSend.zero
  slots := List.replicate st.params.nSlots Slot.free
  rxp := PacketReg.zero
  txp := PacketReg.zero
  io := io

/-- The machine right after reset (R58). -/
def State.reset : State := State.resetWith Straps.atReset (Ports.quiet Straps.atReset)

end Sys2Proof.Machine
end

