-- ==== Sys2Proof/Machine/Update.lean ====
section
/-! DEFINITION. The named record updates of State: every meaning writes state through these. -/

namespace Sys2Proof.Machine

/-- Write the tick counter `now` (R50). -/
def State.setNow (s : State) (n : Nat) : State := { s with now := n }

/-- Write the register `STICKY` (R55). -/
def State.setSticky (s : State) (w : Word32) : State := { s with sticky := w }

/-- Write the connection record `C` (R23). -/
def State.setC (s : State) (c : Conn) : State := { s with c := c }

/-- Write the pending-send record `P` (R33). -/
def State.setP (s : State) (p : PendingSend) : State := { s with p := p }

/-- Write the connection table `S` (R40). -/
def State.setSlots (s : State) (t : List Slot) : State := { s with slots := t }

/-- Write `RXP` (R21). -/
def State.setRxp (s : State) (r : PacketReg) : State := { s with rxp := r }

/-- Write `TXP` (R22). -/
def State.setTxp (s : State) (r : PacketReg) : State := { s with txp := r }

/-- Write what stands at the ports. -/
def State.setIo (s : State) (io : Ports) : State := { s with io := io }

end Sys2Proof.Machine
end

