-- ==== Sys2Proof/Machine/Flags.lean ====
section
/-! DEFINITION. The flags of RDT-CE (spec 10_state.md R51, R55): the codes of `C.state` and `C.result`, the sticky
bits and the classes of `C.state`. The flags values of packets (R106) are in Decode.lean. -/

namespace Sys2Proof.Machine

/-- The 3-bit encodings of `C.state` (R24). -/
def ConnState.code : ConnState → BitVec 3
  | .idle => 0
  | .synSent => 1
  | .established => 2
  | .finSent => 3
  | .linger => 4
  | .closed => 5

/-- The 3-bit codes of `C.result` (R31, R320). -/
def Result.code : Result → BitVec 3
  | .ok => 0
  | .errTransport => 1
  | .errPeerUnresponsive => 2
  | .errTeardownNotAcked => 3
  | .errOversize => 4

/-- The bit numbers of `STICKY` (R55). -/
def StickyBit.index : StickyBit → Nat
  | .malformed => 0
  | .rsvdFlags => 1
  | .tblFull => 2
  | .lookupMiss => 3
  | .rxErr => 4
  | .encLen => 5
  | .rxTrunc => 6
  | .slotAbort => 7

/-- The value of `STICKY` with the bit set; every other bit as it was (R55). -/
def stickyWith (b : StickyBit) (w : Word32) : Word32 := w ||| BitVec.twoPow 32 b.index

/-- Set a sticky bit (R55): nothing but `E_RESET` clears one. -/
def raiseSticky (b : StickyBit) (s : State) : State := s.setSticky (stickyWith b s.sticky)

/-- Is the sticky bit set? -/
def State.stickyBit (s : State) (b : StickyBit) : Bool := s.sticky.getLsbD b.index

/-- The states in which the initiator examines a received datagram: SYN_SENT, ESTABLISHED, FIN_SENT and LINGER
(R166, R182, R202). -/
def ConnState.active : ConnState → Bool
  | .idle => false
  | .synSent => true
  | .established => true
  | .finSent => true
  | .linger => true
  | .closed => false

/-- The states in which a packet is outstanding: SYN_SENT, ESTABLISHED and FIN_SENT (R34 (iii), R167). -/
def ConnState.sending : ConnState → Bool
  | .idle => false
  | .synSent => true
  | .established => true
  | .finSent => true
  | .linger => false
  | .closed => false

end Sys2Proof.Machine
end

