-- ==== Sys2Proof/Machine/Operands.lean ====
section
/-! DEFINITION. The operands of the rules: sequence and time arithmetic (spec 40_codec.md R140 to R152), chunks
(42_initiator.md R185), slots by index and by id (43_responder.md R232, R236), the packet register sets. -/

namespace Sys2Proof.Machine

/-- `add_seq(a, n)` of R140: the sum over the natural numbers, then reduced modulo `MAX_SEQ`. -/
def addSeq (q : Params) (a : Word32) (n : Nat) : Word32 := BitVec.ofNat 32 ((a.toNat + n) % q.maxSeq)

/-- The initial sequence number of a draw: `RngDraw() mod MAX_SEQ` (R292). -/
def isnOf (q : Params) (draw : Word16) : Word32 := BitVec.ofNat 32 (draw.toNat % q.maxSeq)

/-- `MAX_DGRAM = HDR_LEN + MAX_PAYLOAD` (R5). -/
def maxDgram (q : Params) : Nat := q.hdrLen + q.maxPayload

/-- `T_ROUND` in ticks (R5), rounded down like every deadline (DEDUCED: log 19). -/
def roundTicks (q : Params) : Nat := q.tRoundMs / q.tickMs

/-- `T_ABORT` in ticks (R5). -/
def abortTicks (q : Params) : Nat := q.tAbortMs / q.tickMs

/-- `T_LINGER` in ticks (R5). -/
def lingerTicks (q : Params) : Nat := q.tLingerMs / q.tickMs

/-- `T_INACT` in ticks (R5). -/
def inactTicks (q : Params) : Nat := q.tInactMs / q.tickMs

/-- The value `now` takes at a tick: `(now + 1) mod 2^NOW_W` (R50). -/
def nextNow (q : Params) (now : Nat) : Nat := (now + 1) % 2 ^ q.nowW

/-- Elapsed time `(now - t0) mod 2^NOW_W` (R152). -/
def elapsed (q : Params) (now t0 : Nat) : Nat :=
  (now % 2 ^ q.nowW + (2 ^ q.nowW - t0 % 2 ^ q.nowW)) % 2 ^ q.nowW

/-- The expiry test of R165: a deadline of `t` ticks started at `t0` is expired. -/
def expired (q : Params) (now t0 t : Nat) : Bool := decide (t ≤ elapsed q now t0)

/-- A peer address as the block holds it: `PEER_ADDR_W` bits (R5, R281). -/
def peerAddrOf (q : Params) (a : Nat) : Nat := a % 2 ^ q.peerAddrW

/-- `min(CHUNK, C.src_len - P.source_offset)` of R142 and R185: the length of the outstanding chunk, 0 when
the offset is beyond the source, where no run comes (DEDUCED, safe: log 20). -/
def chunkLen (s : State) : Nat :=
  min s.params.chunk (s.c.srcLen.toNat - s.p.sourceOffset.toNat)

/-- The source offset after the outstanding chunk: ordinary addition (R151). -/
def nextOffset (s : State) : Word32 := s.p.sourceOffset + BitVec.ofNat 32 (chunkLen s)

/-- Slot `i` of the table; an index outside the table is no slot and reads as free (DEDUCED, safe: log 20). -/
def State.slot (s : State) (i : Nat) : Slot := s.slots.getD i Slot.free

/-- Write slot `i` of the table; an index outside the table writes nothing. -/
def State.setSlot (s : State) (i : Nat) (x : Slot) : State := s.setSlots (s.slots.set i x)

/-- The free-slot predicate of R232: not in use, or in use and inactive for `T_INACT`. -/
def slotCandidate (q : Params) (now : Nat) (x : Slot) : Bool :=
  !x.inUse || expired q now x.lastActivity (inactTicks q)

/-- The SYN scan of R233: the candidate with the lowest index. -/
def findCandidate (s : State) : Option Nat := s.slots.findIdx? (slotCandidate s.params s.now)

/-- `lookup(id)` of R236: the in-use slot with this connection id. -/
def lookupSlot (s : State) (id : Word16) : Option Nat := s.slots.findIdx? (fun x => x.inUse && x.connId == id)

/-- A packet register set filled with a packet, an address and the datagram's length, which is `HDR_LEN` and the payload
(R21, R22, R133). -/
def packetRegOf (q : Params) (k : Packet) (peer : Nat) : PacketReg where
  seq := k.seq
  ack := k.ack
  connId := k.connId
  flags := k.flags
  len := k.payload.length
  payload := k.payload
  peer := peer
  n := q.hdrLen + k.payload.length

/-- A packet without payload. -/
def barePacket (flags : Word16) (seq ack : Word32) (connId : Word16) : Packet where
  seq := seq
  ack := ack
  connId := connId
  flags := flags
  payload := []

/-- The packet slot `x` sends in reply, carrying the slot's current `seq`, `ack` and id (R234, R242, R244). -/
def slotPacket (x : Slot) (flags : Word16) : Packet := barePacket flags x.seq x.ack x.connId

end Sys2Proof.Machine
end

