-- ==== Sys2Proof/Machine/Ops.lean ====
section
/-! DEFINITION. The named operations every rule is built from: the source bytes, the ports' operations, and the ways an
event ends abnormally: `close` (spec R205, R318), `drop` (R319), `abort_slot` (R247). There is no return from an
error (R323); `E_RESET` is the way out of CLOSED (R203, R350). -/

namespace Sys2Proof.Machine

/-- The source byte at an address (R70 (2)); an address that no entry lists reads as `Config.srcFill`. -/
def Memory.read : Memory → Nat → Byte
  | [], _ => Config.srcFill
  | cell :: rest, a => if cell.1 = a then cell.2 else Memory.read rest a

/-- Put a byte at an address, keeping the canonical form: a byte equal to the fill is not listed. -/
def Memory.write (a : Nat) (b : Byte) : Memory → Memory
  | [] => if b = Config.srcFill then [] else [(a, b)]
  | cell :: rest =>
    if a < cell.1 then (if b = Config.srcFill then cell :: rest else (a, b) :: cell :: rest)
    else if a = cell.1 then (if b = Config.srcFill then rest else (a, b) :: rest)
    else cell :: Memory.write a b rest

/-- Every entry of the list lies above `lo` and below `2^32`, in strictly rising order, and none is the fill. -/
def Memory.wfAbove (lo : Nat) : Memory → Bool
  | [] => true
  | cell :: rest =>
    decide (lo ≤ cell.1) && decide (cell.1 < 2 ^ 32) && !(cell.2 == Config.srcFill) && Memory.wfAbove (cell.1 + 1) rest

/-- The canonical form of the source byte space: strictly rising u32 addresses, no entry equal to the fill. -/
def Memory.wf (m : Memory) : Bool := Memory.wfAbove 0 m

/-- `SRC[off .. off+len-1]` (R287). -/
def Memory.readBytes (m : Memory) (off : Nat) : Nat → List Byte
  | 0 => []
  | n + 1 => Memory.read m off :: Memory.readBytes m (off + 1) n

/-- What a feed answers next. -/
def Feed.head {α : Type} (f : Feed α) : α := f.front.headD f.rest

/-- The feed after one answer. -/
def Feed.tail {α : Type} (f : Feed α) : Feed α := { f with front := f.front.tail }

/-- Record a visible operation, after those already issued (R82). -/
def emit (o : PortOp) (s : State) : State := s.setIo { s.io with trace := s.io.trace ++ [o] }

/-- What the next `RngDraw()` answers (R292). -/
def drawValue (s : State) : Word16 := s.io.draws.head

/-- The state after one `RngDraw()` (R292). -/
def takeDraw (s : State) : State := s.setIo { s.io with draws := s.io.draws.tail }

/-- What the next `Tx` answers (R285). -/
def txOutcome (s : State) : TxResult := s.io.txResults.head

/-- Hand one datagram to the transport layer and take its answer (R284). -/
def handToTx (d : List Byte) (dest : Nat) (s : State) : State :=
  s.setIo { s.io with trace := s.io.trace ++ [.tx d dest], txResults := s.io.txResults.tail }

/-- `Tx(ENCODE(k), dest)`: `TXP` is written (R22); a payload too long makes `ENCODE` refuse, so that `ENC_LEN` is set
and nothing is handed over (R132, R333; then no `Tx` has failed: DESIGN CHOICE, unsafe in form but unreachable, log 18);
else the datagram is handed over and the result is the transport layer's (R284, R285). -/
def transmit (k : Packet) (dest : Nat) (s : State) : TxResult × State :=
  match encodePacket s.params.maxPayload k with
  | none => (.ok, raiseSticky .encLen (s.setTxp (packetRegOf s.params k dest)))
  | some d => (txOutcome s, handToTx d dest (s.setTxp (packetRegOf s.params k dest)))

/-- `close(res)` of R205, which is `fatal(res)` of R318 for `res` other than `OK`: three fields change, nothing is
sent. -/
def closeConn (r : Result) (s : State) : State :=
  (s.setC { s.c with state := .closed, result := r }).setP { s.p with valid := false }

/-- `drop(bit)` of R319: the sticky bit is set and the event ends. -/
def drop (b : StickyBit) (s : State) : State := raiseSticky b s

/-- `tx_or_die(d)` of R204. -/
def txOrDie (k : Packet) (s : State) : State :=
  match transmit k s.c.peerAddr s with
  | (.ok, t) => t
  | (.fail, t) => closeConn .errTransport t

/-- `close_sink(i)` of R246: `SinkClose` only for a sink that is open. -/
def closeSink (i : Nat) (s : State) : State :=
  if (s.slot i).sinkOpen then
    (emit (.sinkClose (s.slot i).connId) s).setSlot i { s.slot i with sinkOpen := false }
  else s

/-- `free_slot(i)` of R247: every field of the slot is 0. -/
def freeSlot (i : Nat) (s : State) : State := s.setSlot i Slot.free

/-- `abort_slot(i)` of R247. -/
def abortSlot (i : Nat) (s : State) : State := raiseSticky .slotAbort (freeSlot i (closeSink i s))

/-- `rtx(i, d)` of R247: the reply goes to the sender of the datagram being answered (R253); a failed `Tx` aborts the
slot, and the result tells the rule to abandon the rest of the event. -/
def replyTx (i : Nat) (k : Packet) (s : State) : TxResult × State :=
  match transmit k s.rxp.peer s with
  | (.ok, t) => (.ok, t)
  | (.fail, t) => (.fail, abortSlot i t)

/-- The effect of `E_RESET` (R350): every piece of the block's state at its reset value with the strap pins sampled
(R352). Nothing is sent and no sink operation is issued; what stands at the ports is not the block's and stays, the
reset request being cleared (DEDUCED, unsafe: log 7). -/
def resetMachine (s : State) : State :=
  State.resetWith s.io.strap { s.io with resetReq := false }

/-- `E_RX` of a decodable packet after `DECODE`: the selected engine handles it (R52). The initiator first restarts the
abort deadline (R166) and examines nothing in IDLE and CLOSED (R202; that
`exec` leaves the state there is a DESIGN CHOICE, safe: log 21). -/
def arrive (atInitiator atResponder : State → State) (s : State) : Host.Outcome State Fault Refusal :=
  match s.role with
  | .initiator =>
    if s.c.state.active then .next (atInitiator (s.setC { s.c with lastActivity := s.now })) else .next s
  | .responder => .next (atResponder s)

end Sys2Proof.Machine
end

