-- ==== Sys2Proof/Machine/Initiator.lean ====
section
/-! DEFINITION. The initiator connection sequencer (spec 42_initiator.md): the outstanding packet, the handshake, the
data transfer and the teardown. The kinds that call these are in Handshake.lean, Transfer.lean and Teardown.lean. -/

namespace Sys2Proof.Machine

/-- `pending_dgram()` of R184 before `ENCODE`: the one outstanding packet rebuilt from `P`, `C` and the source. -/
def pendingPacket (s : State) : Option Packet :=
  match s.c.state with
  | .synSent => some (barePacket (flagsSyn s.params) s.p.seq s.p.ack 0)
  | .established =>
    some
      { seq := s.p.seq
        ack := s.p.ack
        connId := s.c.connId
        flags := flagsData
        payload := Memory.readBytes s.io.src s.p.sourceOffset.toNat (chunkLen s) }
  | .finSent => some (barePacket (flagsFin s.params) s.p.seq s.p.ack s.c.connId)
  | .idle => none
  | .linger => none
  | .closed => none

/-- The `SrcRead` that rebuilding a data packet issues, on every transmission of it (R184, R287). -/
def noteSrcRead (s : State) : State :=
  if s.c.state = .established then emit (.srcRead s.p.sourceOffset.toNat (chunkLen s)) s else s

/-- `tx_or_die(pending_dgram())` (R184, R204). Every rule calls it in a state that has an outstanding packet. -/
def sendPending (s : State) : State :=
  match pendingPacket s with
  | none => s
  | some k => txOrDie k (noteSrcRead s)

/-- Restart the round and send the outstanding packet once more (R169, R187, R192, R194, R196). -/
def resendPending (s : State) : State := sendPending (s.setP { s.p with sendTime := s.now })

/-- `P <- {valid=1, seq=C.local_seq, ack, send_time=now, source_offset=off}` (R186, R190). -/
def armPending (ack off : Word32) (s : State) : State :=
  s.setP { valid := true, seq := s.c.localSeq, ack := ack, sendTime := s.now, sourceOffset := off }

/-- The entry to FIN_SENT (R190, R195): the FIN is outstanding and both timers start. -/
def enterFinSent (off : Word32) (s : State) : State :=
  armPending 0 off (s.setC { s.c with state := .finSent, lastActivity := s.now })

/-- `send_next(off)` of R190: the next chunk, or the FIN when nothing is left. -/
def sendNext (off : Word32) (s : State) : State :=
  if off = s.c.srcLen then sendPending (enterFinSent off s)
  else sendPending (armPending s.c.peerAckExpected off s)

/-- `E_START` in initiator role after the test for IDLE (R186): the size check, then the ISN, the SYN and both
timers. -/
def startTransfer (s : State) : State :=
  if s.params.maxXfer < s.c.srcLen.toNat then closeConn .errOversize s
  else
    sendPending
      (armPending 0 0
        ((takeDraw s).setC
          { s.c with state := .synSent, localSeq := isnOf s.params (drawValue s), lastActivity := s.now }))

/-- `E_START` (R186, R254): it acts in initiator role in IDLE and changes nothing anywhere else. -/
def eventStart (s : State) : State :=
  match s.role with
  | .initiator => if s.c.state = .idle then startTransfer s else s
  | .responder => s

/-- Handshake completion (R189), with the accepted SYNACK's `seq`, `ack` and id. -/
def establish (seq ack : Word32) (connId : Word16) (s : State) : State :=
  sendNext 0
    (s.setC
      { s.c with
        localSeq := ack, peerAckExpected := addSeq s.params seq 1, connId := connId, state := .established })

/-- A SYNACK at the initiator (R182, R188): accepted in SYN_SENT with the matching `ack`, dropped otherwise. -/
def initiatorSynack (seq ack : Word32) (connId : Word16) (s : State) : State :=
  match s.c.state with
  | .synSent => if ack = addSeq s.params s.c.localSeq 1 then establish seq ack connId s else s
  | .established => s
  | .finSent => s
  | .linger => s
  | .idle => s
  | .closed => s

/-- The outstanding chunk is acknowledged (R191): advance, and send what comes next. -/
def advanceChunk (s : State) : State :=
  sendNext (nextOffset s) (s.setC { s.c with localSeq := addSeq s.params s.c.localSeq (chunkLen s) })

/-- An ACK at the initiator (R182): in ESTABLISHED the expected acknowledgment advances (R191) and any other one sends
the chunk again (R192); elsewhere it is dropped. -/
def initiatorAck (ack : Word32) (s : State) : State :=
  match s.c.state with
  | .established =>
    if ack = addSeq s.params s.c.localSeq (chunkLen s) then advanceChunk s else resendPending s
  | .synSent => s
  | .finSent => s
  | .linger => s
  | .idle => s
  | .closed => s

/-- `is_peer_fin()` of R197, from the packet's kind (its flags value, R107) and `ack`. -/
def isPeerFin (kind : Kind) (ack : Word32) (s : State) : Bool :=
  kind == .fin || (kind == .finack && ack == addSeq s.params s.c.localSeq 1)

/-- `final_ack()` of R198, with the peer FIN's `seq`. -/
def finalAck (seq : Word32) (s : State) : State :=
  txOrDie (barePacket (flagsAck s.params) (addSeq s.params s.c.localSeq 1) (addSeq s.params seq 1) s.c.connId) s

/-- The peer's close observed in FIN_SENT (R197): the FIN is acknowledged and the linger window opens. -/
def enterLinger (seq : Word32) (s : State) : State :=
  finalAck seq
    ((s.setP { s.p with valid := false }).setC { s.c with state := .linger, lingerStart := s.now })

/-- A FIN or FINACK at the initiator (R182, R197, R200). -/
def initiatorFin (kind : Kind) (seq ack : Word32) (s : State) : State :=
  match s.c.state with
  | .finSent => if isPeerFin kind ack s then enterLinger seq s else s
  | .linger => if isPeerFin kind ack s then finalAck seq s else s
  | .synSent => s
  | .established => s
  | .idle => s
  | .closed => s

end Sys2Proof.Machine
end

