-- ==== Sys2Proof/Machine/Responder.lean ====
section
/-! DEFINITION. The responder connection table (spec 43_responder.md): allocation on a SYN, delivery and
acknowledgment of data, the FIN. Every operation takes the operands of the received packet; replies go to `RXP.peer`
(R253). -/

namespace Sys2Proof.Machine

/-- The old sink of an expired slot is closed before the slot is reused (R234). -/
def reclaimSlot (i : Nat) (s : State) : State := if (s.slot i).inUse then closeSink i s else s

/-- The record of a newly allocated slot (R234). -/
def newSlot (i : Nat) (seq : Word32) (s : State) : Slot where
  inUse := true
  connId := BitVec.ofNat 16 (i + 1)
  peerAddr := s.rxp.peer
  seq := isnOf s.params (drawValue s)
  ack := addSeq s.params seq 1
  finObserved := false
  sinkOpen := true
  lastActivity := s.now

/-- The slot is written, the draw it used consumed, and its sink opened (R234). -/
def openSlot (i : Nat) (seq : Word32) (s : State) : State :=
  emit (.sinkOpen (BitVec.ofNat 16 (i + 1))) ((takeDraw s).setSlot i (newSlot i seq s))

/-- SYN allocation and reply in slot `i` (R234). -/
def allocateSlot (i : Nat) (seq : Word32) (s : State) : State :=
  let t := openSlot i seq (reclaimSlot i s)
  (replyTx i (slotPacket (t.slot i) (flagsSynAck t.params)) t).2

/-- A SYN at the responder (R232 to R235): the lowest candidate slot, or `TBL_FULL`. -/
def responderSyn (seq : Word32) (s : State) : State :=
  match findCandidate s with
  | none => drop .tblFull s
  | some i => allocateSlot i seq s

/-- The activity stamp of R249. -/
def stampSlot (i : Nat) (s : State) : State := s.setSlot i { s.slot i with lastActivity := s.now }

/-- DATA or ACK to a slot that has observed a FIN (R238). -/
def closingSlot (pureAck : Bool) (i : Nat) (s : State) : State :=
  if pureAck then freeSlot i (closeSink i s) else closeSink i s

/-- In-order payload is delivered (R239); payload out of order is discarded (R240). -/
def deliver (i : Nat) (seq : Word32) (payload : List Byte) (s : State) : State :=
  if seq = (s.slot i).ack then
    let t := s.setSlot i { s.slot i with ack := addSeq s.params (s.slot i).ack payload.length }
    if payload = [] then t
    else emit (.sinkFlush (s.slot i).connId) (emit (.sinkWrite (s.slot i).connId payload) t)
  else s

/-- The reconciliation of the slot's own `seq` (R241). -/
def reconcile (i : Nat) (ack : Word32) (s : State) : State :=
  if ack = (s.slot i).seq then s
  else if ack = addSeq s.params (s.slot i).seq 1 then
    s.setSlot i { s.slot i with seq := addSeq s.params (s.slot i).seq 1 }
  else s

/-- The pure ACK that answers a DATA or ACK, carrying the slot's current `seq` and `ack` (R242). -/
def acknowledge (i : Nat) (s : State) : State := (replyTx i (slotPacket (s.slot i) (flagsAck s.params)) s).2

/-- DATA or ACK that has found its open slot (R239 to R242). -/
def openSlotPacket (i : Nat) (seq ack : Word32) (payload : List Byte) (s : State) : State :=
  acknowledge i (reconcile i ack (deliver i seq payload s))

/-- DATA or ACK at the responder (R236 to R242); `pureAck` is `flags == 4`. -/
def responderData (pureAck : Bool) (seq ack : Word32) (connId : Word16) (payload : List Byte) (s : State) : State :=
  match lookupSlot s connId with
  | none => drop .lookupMiss s
  | some i =>
    if (s.slot i).finObserved then closingSlot pureAck i (stampSlot i s)
    else openSlotPacket i seq ack payload (stampSlot i s)

/-- The in-order advance of a FIN (R243). -/
def advanceFin (i : Nat) (seq : Word32) (s : State) : State :=
  if seq = (s.slot i).ack then s.setSlot i { s.slot i with ack := addSeq s.params (s.slot i).ack 1 } else s

/-- Mark the slot and close its sink (R245). -/
def markFin (i : Nat) (s : State) : State := closeSink i (s.setSlot i { s.slot i with finObserved := true })

/-- The two replies to a FIN and then the mark; a failed `Tx` abandons the rest of the event (R244, R245, R247). -/
def answerFin (i : Nat) (s : State) : State :=
  match replyTx i (slotPacket (s.slot i) (flagsAck s.params)) s with
  | (.fail, t) => t
  | (.ok, t) =>
    match replyTx i (slotPacket (t.slot i) t.params.rspFinFlags) t with
    | (.fail, u) => u
    | (.ok, u) => markFin i u

/-- A FIN at the responder (R243 to R245). -/
def responderFin (seq : Word32) (connId : Word16) (s : State) : State :=
  match lookupSlot s connId with
  | none => drop .lookupMiss s
  | some i => answerFin i (advanceFin i seq (stampSlot i s))

end Sys2Proof.Machine
end

