-- ==== Sys2Proof/Machine/Handshake.lean ====
section
/-! DEFINITION. The meanings of SYN and SYNACK (spec 40_codec.md R146, R149). -/

namespace Sys2Proof.Machine

/-- SYN (R146): at the responder a slot is allocated and a SYNACK sent, or the SYN is dropped (R233 to R235); at the
initiator it is dropped with `RSVD_FLAGS` (R182). Its `ack`, id and payload are ignored. -/
def execSyn (seq _ack : Word32) (_connId : Word16) (_payload : List Byte) (s : State) :
    Host.Outcome State Fault Refusal :=
  arrive (drop .rsvdFlags) (responderSyn seq) s

/-- SYNACK (R149): at the initiator R188 and R189; at the responder it is dropped with `RSVD_FLAGS` (R248). Its payload
is ignored. -/
def execSynack (seq ack : Word32) (connId : Word16) (_payload : List Byte) (s : State) :
    Host.Outcome State Fault Refusal :=
  arrive (initiatorSynack seq ack connId) (drop .rsvdFlags) s

end Sys2Proof.Machine
end

