-- ==== Sys2Proof/Machine/Teardown.lean ====
section
/-! DEFINITION. The meanings of FIN and FINACK (spec 40_codec.md R145, R148). -/

namespace Sys2Proof.Machine

/-- FIN (R145): at the responder R243 to R245; at the initiator it is a peer FIN whatever its `ack` (R197, R200). Its
payload is ignored. -/
def execFin (seq ack : Word32) (connId : Word16) (_payload : List Byte) (s : State) :
    Host.Outcome State Fault Refusal :=
  arrive (initiatorFin .fin seq ack) (responderFin seq connId) s

/-- FINACK (R148): at the initiator a peer FIN if its `ack` matches (R197, R200); at the responder it is dropped with
`RSVD_FLAGS` (R248). -/
def execFinack (seq ack : Word32) (_connId : Word16) (_payload : List Byte) (s : State) :
    Host.Outcome State Fault Refusal :=
  arrive (initiatorFin .finack seq ack) (drop .rsvdFlags) s

end Sys2Proof.Machine
end

