-- ==== Sys2Proof/Machine/Transfer.lean ====
section
/-! DEFINITION. The meanings of DATA and ACK (spec 40_codec.md R144, R147). -/

namespace Sys2Proof.Machine

/-- DATA (R144): at the responder R236 to R242; at the initiator it is dropped with `RSVD_FLAGS` (R182). -/
def execData (seq ack : Word32) (connId : Word16) (payload : List Byte) (s : State) :
    Host.Outcome State Fault Refusal :=
  arrive (drop .rsvdFlags) (responderData false seq ack connId payload) s

/-- ACK (R147): at the initiator R191 and R192, where its `seq`, id and payload are ignored (R207); at the responder the
same handler as DATA, and it completes the teardown of a slot that has observed a FIN (R238). -/
def execAck (seq ack : Word32) (connId : Word16) (payload : List Byte) (s : State) :
    Host.Outcome State Fault Refusal :=
  arrive (initiatorAck ack) (responderData true seq ack connId payload) s

end Sys2Proof.Machine
end

