-- ==== Sys2Proof/Machine/Dispatch.lean ====
section
/-! DEFINITION. One arm per row of spec/opcode_table.json: the arrival of a packet of that kind. -/

namespace Sys2Proof.Machine

def exec (i : Instr) (s : State) : Host.Outcome State Fault Refusal :=
  match i with
  | .data seq ack connId payload => Sys2Proof.Machine.execData seq ack connId payload s
  | .fin seq ack connId payload => Sys2Proof.Machine.execFin seq ack connId payload s
  | .syn seq ack connId payload => Sys2Proof.Machine.execSyn seq ack connId payload s
  | .ack seq ack connId payload => Sys2Proof.Machine.execAck seq ack connId payload s
  | .finack seq ack connId payload => Sys2Proof.Machine.execFinack seq ack connId payload s
  | .synack seq ack connId payload => Sys2Proof.Machine.execSynack seq ack connId payload s

end Sys2Proof.Machine
end

