-- ==== Sys2Proof/Machine/HostPort.lean ====
section
/-! DEFINITION. The host register map (spec 10_state.md R53 to R56, 44_interfaces.md R294). A register number is a
natural number, so that every slot of a table of any legal size has its numbers (DESIGN CHOICE, unsafe above slot 8159:
log 12). -/

namespace Sys2Proof.Machine

/-- A one-bit field. -/
def bitField (b : Bool) : Word32 := if b then 1 else 0

/-- The low 32 bits of a number. -/
def lowWord (n : Nat) : Word32 := BitVec.ofNat 32 n

/-- Bits 63:32 of a number. -/
def highWord (n : Nat) : Word32 := BitVec.ofNat 32 (n / 2 ^ 32)

/-- Bits 47:32 of a number, in the low half of a register; the other bits are 0. -/
def highHalf (n : Nat) : Word32 := BitVec.ofNat 32 (n / 2 ^ 32 % 2 ^ 16)

/-- `CFG`: bit 0 `ROLE`, bits 31:16 `N_SLOTS`. -/
def cfgWord (s : State) : Word32 :=
  bitField (s.role == .responder) ||| (BitVec.ofNat 32 s.params.nSlots <<< 16)

/-- `STATUS`: bits 2:0 `C.state`, bits 6:4 `C.result`, bit 8 `DONE`, bit 9 `P.valid`. -/
def statusWord (s : State) : Word32 :=
  s.c.state.code.setWidth 32 ||| (s.c.result.code.setWidth 32 <<< 4) |||
    (bitField (s.c.state == .closed) <<< 8) ||| (bitField s.p.valid <<< 9)

/-- `SLOT_FLAGS[i]`: bit 0 `in_use`, bit 1 `fin_observed`, bit 2 `sink_open`, bits 31:16 `conn_id`. -/
def slotFlagsWord (x : Slot) : Word32 :=
  bitField x.inUse ||| (bitField x.finObserved <<< 1) ||| (bitField x.sinkOpen <<< 2) |||
    (x.connId.setWidth 32 <<< 16)

/-- Register `r` (0 to 7) of a slot's block. -/
def slotRegister (x : Slot) (r : Nat) : Word32 :=
  if r = 0 then slotFlagsWord x
  else if r = 1 then x.seq
  else if r = 2 then x.ack
  else if r = 3 then lowWord x.peerAddr
  else if r = 4 then highHalf x.peerAddr
  else if r = 5 then lowWord x.lastActivity
  else if r = 6 then highWord x.lastActivity
  else 0

/-- A host register read (R53): `CTRL` and every number not listed read 0; a read changes nothing (R76, R294). -/
def hostRead (s : State) (number : Nat) : Word32 :=
  if 0x100 ≤ number then
    if (number - 0x100) / 8 < s.params.nSlots then
      slotRegister (s.slot ((number - 0x100) / 8)) ((number - 0x100) % 8)
    else 0
  else if number = 0x01 then cfgWord s
  else if number = 0x02 then statusWord s
  else if number = 0x03 then s.sticky
  else if number = 0x04 then s.c.srcLen
  else if number = 0x05 then lowWord s.c.peerAddr
  else if number = 0x06 then highHalf s.c.peerAddr
  else if number = 0x07 then s.c.connId.setWidth 32
  else if number = 0x08 then s.c.localSeq
  else if number = 0x09 then s.c.peerAckExpected
  else if number = 0x0A then s.p.sourceOffset
  else if number = 0x0B then lowWord s.now
  else if number = 0x0C then highWord s.now
  else 0

/-- `C.peer_addr` with bits 31:0 replaced (R53, `PEER_LO`). -/
def withPeerLo (q : Params) (a : Nat) (v : Word32) : Nat :=
  peerAddrOf q (a / 2 ^ 32 * 2 ^ 32 + v.toNat)

/-- `C.peer_addr` with bits 47:32 replaced by bits 15:0 of the value written (R53, `PEER_HI`). -/
def withPeerHi (q : Params) (a : Nat) (v : Word32) : Nat :=
  peerAddrOf q (a / 2 ^ 48 * 2 ^ 48 + v.toNat % 2 ^ 16 * 2 ^ 32 + a % 2 ^ 32)

/-- A write to one of the three registers that are writable only in IDLE (R53, R56, R367), in
either role (DEDUCED, unsafe: log 11). -/
def writeInIdle (c : Conn) (s : State) : State := if s.c.state = .idle then s.setC c else s

/-- A host register write (R53): `CTRL` bit 0 raises one `E_START` (R54); `SRC_LEN`, `PEER_LO` and `PEER_HI` take effect
in IDLE; every other register ignores the write. -/
def hostWrite (number : Nat) (value : Word32) (s : State) : State :=
  if number = 0x00 then
    if value.getLsbD 0 then s.setIo { s.io with start := s.io.start + 1 } else s
  else if number = 0x04 then writeInIdle { s.c with srcLen := value } s
  else if number = 0x05 then writeInIdle { s.c with peerAddr := withPeerLo s.params s.c.peerAddr value } s
  else if number = 0x06 then writeInIdle { s.c with peerAddr := withPeerHi s.params s.c.peerAddr value } s
  else s

end Sys2Proof.Machine
end

