-- ==== Sys2Proof/Machine/Timer.lean ====
section
/-! DEFINITION. The deadline timer (spec 41_timer.md): the three deadlines and their evaluation at a tick. -/

namespace Sys2Proof.Machine

/-- `abort_running` of R163. -/
def abortRunning (s : State) : Bool :=
  match s.c.state with
  | .synSent => true
  | .finSent => true
  | .established => s.params.abortInEstablished
  | .idle => false
  | .linger => false
  | .closed => false

/-- The abort deadline is found expired (R163, R165). -/
def abortExpired (s : State) : Bool :=
  abortRunning s && expired s.params s.now s.c.lastActivity (abortTicks s.params)

/-- The linger deadline is found expired (R164, R165). -/
def lingerExpired (s : State) : Bool :=
  s.c.state == .linger && expired s.params s.now s.c.lingerStart (lingerTicks s.params)

/-- The round deadline is found expired (R162, R165, R168). -/
def roundExpired (s : State) : Bool :=
  s.c.state.sending && s.p.valid && expired s.params s.now s.p.sendTime (roundTicks s.params)

/-- The result an expired abort deadline closes with (R168, R312, R317). -/
def abortResult (s : State) : Result :=
  match s.c.state with
  | .finSent => .errTeardownNotAcked
  | .synSent => .errPeerUnresponsive
  | .established => .errPeerUnresponsive
  | .idle => .errPeerUnresponsive
  | .linger => .errPeerUnresponsive
  | .closed => .errPeerUnresponsive

/-- The deadline evaluation of R168: abort first, then linger, then round; at most one of them acts. -/
def evalDeadlines (s : State) : State :=
  if abortExpired s then closeConn (abortResult s) s
  else if lingerExpired s then closeConn .ok s
  else if roundExpired s then resendPending s
  else s

/-- The increment of `now` (R50). -/
def countTick (s : State) : State := s.setNow (nextNow s.params s.now)

/-- `E_TICK`: the increment, then in initiator role the deadlines (R168); in responder role nothing else (R170, R250). -/
def eventTick (s : State) : State :=
  match s.role with
  | .initiator => evalDeadlines (countTick s)
  | .responder => countTick s

end Sys2Proof.Machine
end

