-- ==== Sys2Proof/Machine/Receive.lean ====
section
/-! DEFINITION. Events and their priority (spec 60_exceptions.md R321, R322), the environment's turn, and the receive
path from the RX port to a decoded packet (44_interfaces.md R281, R282; 42_initiator.md R182; 43_responder.md R231). -/

namespace Sys2Proof.Machine

/-- One action of the environment at the ports: a request is raised, or a host access is served (R294). -/
def applyAct (s : State) : PortAct → State
  | .strap st => s.setIo { s.io with strap := st }
  | .reset => s.setIo { s.io with resetReq := true }
  | .rxErr => s.setIo { s.io with rxErr := true }
  | .rx d => s.setIo { s.io with rx := s.io.rx ++ [d] }
  | .tick => s.setIo { s.io with ticks := s.io.ticks + 1 }
  | .hostWrite number value => hostWrite number value s
  | .srcWrite offset byte => s.setIo { s.io with src := Memory.write offset.toNat byte s.io.src }

/-- The actions of a turn, in order. -/
def applyActs : List PortAct → State → State
  | [], s => s
  | a :: rest, s => applyActs rest (applyAct s a)

/-- The environment's turn before an event is chosen: the next list of the script (DEDUCED: log 6,
log 13). -/
def takeTurn (s : State) : State :=
  match s.io.script with
  | [] => s
  | acts :: rest => applyActs acts (s.setIo { s.io with script := rest })

/-- The arbiter of R322: `E_RESET`, `E_RXERR`, `E_RX`, `E_START`, `E_TICK`; `none` when nothing is pending. -/
def arbitrate (io : Ports) : Option Event :=
  if io.resetReq then some .reset
  else if io.rxErr then some .rxErr
  else
    match io.rx with
    | d :: _ => some (.rx d)
    | [] =>
      if io.start ≠ 0 then some .start
      else if io.ticks ≠ 0 then some .tick
      else none

/-- The request an event came from is cleared by being served, and a receive failure that a reset overtakes is gone with
it: only datagrams, starts and tick pulses are pended (R321). -/
def clearRequest (e : Event) (io : Ports) : Ports :=
  match e with
  | .reset => { io with resetReq := false, rxErr := false }
  | .rxErr => { io with rxErr := false }
  | .rx _ => { io with rx := io.rx.tail }
  | .start => { io with start := io.start - 1 }
  | .tick => { io with ticks := io.ticks - 1 }

/-- The RX port's truncation (R282): at most `MAX_DGRAM` bytes of a datagram are delivered. -/
def deliveredBytes (q : Params) (d : Datagram) : List Byte := d.bytes.take (maxDgram q)

/-- `RX_TRUNC` is set for an oversize datagram, whatever the engine does with it (R282, R202). -/
def noteTruncation (d : Datagram) (s : State) : State :=
  if maxDgram s.params < d.bytes.length then raiseSticky .rxTrunc s else s

/-- The engine discards a datagram undecoded: the initiator in IDLE and CLOSED (R202). -/
def discardsRx (s : State) : Bool := s.role == .initiator && !s.c.state.active

/-- The initiator restarts the abort deadline at every decodable packet (R166). -/
def refreshActivity (s : State) : State :=
  match s.role with
  | .initiator => s.setC { s.c with lastActivity := s.now }
  | .responder => s

/-- A packet of a reserved kind is dropped (R150, R182, R248). -/
def receiveReserved (s : State) : State := drop .rsvdFlags (refreshActivity s)

/-- `RXP` after a successful `DECODE` (R21, R133). -/
def loadRxp (k : Packet) (peer : Nat) (s : State) : State :=
  s.setRxp (packetRegOf s.params k (peerAddrOf s.params peer))

/-- `E_RX(d, n, peer)` up to the packet's execution: truncation, the discard of R202, `DECODE` with `MALFORMED`
(R315), `RXP`, and `CLASSIFY` with the drop of a reserved kind (R324). -/
def receive (d : Datagram) (s : State) : Fetched :=
  if discardsRx s then .done (noteTruncation d s)
  else
    match decodePacket s.params (deliveredBytes s.params d) with
    | none => .done (drop .malformed (noteTruncation d s))
    | some k =>
      match classifyPacket s.params k with
      | none => .done (receiveReserved (loadRxp k d.peer (noteTruncation d s)))
      | some i => .run i (loadRxp k d.peer (noteTruncation d s))

/-- `E_RXERR` (R208, R254): fatal for the initiator in its active states, ignored in IDLE and CLOSED; on the responder
`RX_ERR` is set. -/
def eventRxErr (s : State) : State :=
  match s.role with
  | .initiator => if s.c.state.active then closeConn .errTransport s else s
  | .responder => drop .rxErr s

/-- Serve one event whose request has been cleared. -/
def serve (e : Event) (s : State) : Fetched :=
  match e with
  | .reset => .done (resetMachine s)
  | .rxErr => .done (eventRxErr s)
  | .rx d => receive d s
  | .start => .done (eventStart s)
  | .tick => .done (eventTick s)

/-- The environment's turn, the arbiter's choice, and the event it hands over. With nothing pending the block waits
(R334): the state stays as the turn left it (DEDUCED, safe: log 17). -/
def fetchEvent (s : State) : Fetched :=
  match arbitrate (takeTurn s).io with
  | none => .done (takeTurn s)
  | some e => serve e ((takeTurn s).setIo (clearRequest e (takeTurn s).io))

end Sys2Proof.Machine
end

