-- ==== Sys2Proof/Machine/Step.lean ====
section
/-! DEFINITION. One step of RDT-CE: the environment's turn, then one event run to its end (spec 00_scope.md R9). -/

namespace Sys2Proof.Machine

/-- One step (R9): a received packet is executed; every other event is complete when it has been fetched. -/
def step (s : State) : Host.Outcome State Fault Refusal :=
  match fetchEvent s with
  | .done t => .next t
  | .run i t => exec i t

/-- `s` with the datagram of a header word waiting at the RX port, first in line, and nothing before it: the next turn
of the environment is empty and no request of higher priority is pending. It stands for a delivery from outside the
machine (R281; DESIGN CHOICE, safe: log 9). -/
def State.withFetchWord (s : State) (nbits w : Nat) : State :=
  s.setIo
    { s.io with
      resetReq := false
      rxErr := false
      rx := { bytes := headerWordBytes nbits w, peer := 0 } :: s.io.rx
      script := [] :: s.io.script }

end Sys2Proof.Machine
end

