-- ==== Sys2Proof/Safety.lean ====
section
/-! DEFINITION. The terms claims about runs of RDT-CE are made in: the invariants the spec states (R34, R49, R50, R55,
R52), what a legal transmitted datagram is (R113), the operations an event issues (R11, R252) and the sink streams read
off the trace (R289 to R291). -/

namespace Sys2Proof.Machine

/-- The operations issued between two states of a run: what the later trace adds (R11). -/
def issuedOps (s t : State) : List PortOp := t.io.trace.drop s.io.trace.length

/-- Is the operation a `Tx`? -/
def PortOp.isTx : PortOp → Bool
  | .tx _ _ => true
  | .sinkOpen _ => false
  | .sinkWrite _ _ => false
  | .sinkFlush _ => false
  | .sinkClose _ => false
  | .srcRead _ _ => false

/-- Is the operation a `SinkOpen`? -/
def PortOp.isSinkOpen : PortOp → Bool
  | .tx _ _ => false
  | .sinkOpen _ => true
  | .sinkWrite _ _ => false
  | .sinkFlush _ => false
  | .sinkClose _ => false
  | .srcRead _ _ => false

/-- Is the operation a `SinkWrite`? -/
def PortOp.isSinkWrite : PortOp → Bool
  | .tx _ _ => false
  | .sinkOpen _ => false
  | .sinkWrite _ _ => true
  | .sinkFlush _ => false
  | .sinkClose _ => false
  | .srcRead _ _ => false

/-- Is the operation a `SinkFlush`? -/
def PortOp.isSinkFlush : PortOp → Bool
  | .tx _ _ => false
  | .sinkOpen _ => false
  | .sinkWrite _ _ => false
  | .sinkFlush _ => true
  | .sinkClose _ => false
  | .srcRead _ _ => false

/-- Is the operation a `SinkClose`? -/
def PortOp.isSinkClose : PortOp → Bool
  | .tx _ _ => false
  | .sinkOpen _ => false
  | .sinkWrite _ _ => false
  | .sinkFlush _ => false
  | .sinkClose _ => true
  | .srcRead _ _ => false

/-- A strap level is put on the pins only with well-formed parameters (R6); every other action is free. -/
def PortAct.legal : PortAct → Bool
  | .strap st => decide st.params.Wf
  | .reset => true
  | .rxErr => true
  | .rx _ => true
  | .tick => true
  | .hostWrite _ _ => true
  | .srcWrite _ _ => true

/-- The slot a packet's rule serves at the responder (R232, R236): the one its id finds, for a SYN the one the scan finds,
and none for the kinds the responder drops (R248). -/
def servedSlot (i : Instr) (s : State) : Option Nat :=
  match i with
  | .data _ _ id _ => lookupSlot s id
  | .fin _ _ id _ => lookupSlot s id
  | .syn _ _ _ _ => findCandidate s
  | .ack _ _ id _ => lookupSlot s id
  | .finack _ _ _ _ => none
  | .synack _ _ _ _ => none

/-- The most datagrams a packet's event may send at the responder (R252). -/
def replyBound : Instr → Nat
  | .data _ _ _ _ => 1
  | .fin _ _ _ _ => 2
  | .syn _ _ _ _ => 1
  | .ack _ _ _ _ => 1
  | .finack _ _ _ _ => 0
  | .synack _ _ _ _ => 0

/-- Is the instruction a SYN? -/
def instrIsSyn : Instr → Bool
  | .data _ _ _ _ => false
  | .fin _ _ _ _ => false
  | .syn _ _ _ _ => true
  | .ack _ _ _ _ => false
  | .finack _ _ _ _ => false
  | .synack _ _ _ _ => false

/-- The datagram an action delivers to the RX port (R281), if it does. -/
def PortAct.datagram : PortAct → Option Datagram
  | .strap _ => none
  | .reset => none
  | .rxErr => none
  | .rx d => some d
  | .tick => none
  | .hostWrite _ _ => none
  | .srcWrite _ _ => none

/-- Is the action a write of 1 to `CTRL.START` (R54)? -/
def PortAct.isStart : PortAct → Bool
  | .strap _ => false
  | .reset => false
  | .rxErr => false
  | .rx _ => false
  | .tick => false
  | .hostWrite number value => number == 0 && value.getLsbD 0
  | .srcWrite _ _ => false

/-- The parameters in force, those on the pins, and those the environment will put there are well formed (R6). -/
abbrev EnvWf (s : State) : Prop :=
  s.params.Wf ∧ s.io.strap.params.Wf ∧ ∀ acts ∈ s.io.script, ∀ a ∈ acts, a.legal = true

/-- The invariants of the initiator state (R31, R34, R35) and the `ack` that the outstanding packet carries (R33, R113: 0
on a SYN and on a FIN, `C.peer_ack_expected` on a data chunk), with what makes them inductive: nothing has been sent of
the source before ESTABLISHED, and every sequence number held is in range in IDLE too. -/
abbrev InitiatorInv (s : State) : Prop :=
  s.c.localSeq.toNat < s.params.maxSeq ∧
  s.c.peerAckExpected.toNat < s.params.maxSeq ∧
  s.p.ack.toNat < s.params.maxSeq ∧
  s.p.valid = s.c.state.sending ∧
  (s.c.state.sending = true → s.p.seq = s.c.localSeq) ∧
  (s.c.state = .synSent ∨ s.c.state = .finSent → s.p.ack = 0) ∧
  (s.c.state = .established → s.p.ack = s.c.peerAckExpected) ∧
  s.p.sourceOffset.toNat ≤ s.c.srcLen.toNat ∧
  (s.c.state = .established → s.p.sourceOffset.toNat < s.c.srcLen.toNat) ∧
  (s.c.state = .finSent → s.p.sourceOffset = s.c.srcLen) ∧
  (s.c.state = .established → s.p.sourceOffset.toNat % s.params.chunk = 0) ∧
  (s.c.state = .idle ∨ s.c.state = .synSent → s.p.sourceOffset = 0) ∧
  (s.c.state ≠ .closed → s.c.result = .ok) ∧
  (s.c.state ≠ .idle → s.c.result ≠ .errOversize → s.c.srcLen.toNat ≤ s.params.maxXfer)

/-- The invariants of one slot (R42, R44, R45, R47, R49): a free slot is all zero; a slot in use has the id
`i + 1` and numbers in range, and its sink is open exactly until a FIN has been observed. -/
abbrev SlotInv (q : Params) (i : Nat) (x : Slot) : Prop :=
  (x.inUse = false → x = Slot.free) ∧
  (x.inUse = true →
    x.connId.toNat = i + 1 ∧ x.seq.toNat < q.maxSeq ∧ x.ack.toNat < q.maxSeq ∧ x.sinkOpen = !x.finObserved)

/-- The invariants of the connection table (R40, R49). -/
abbrev TableInv (s : State) : Prop :=
  s.slots.length = s.params.nSlots ∧ ∀ i < s.slots.length, SlotInv s.params i (s.slot i)

/-- The counter, the time stamps and the addresses fit their widths, and the reserved bits of `STICKY` read 0
(R28, R29, R43, R48, R50, R55). -/
abbrev RangeInv (s : State) : Prop :=
  s.now < 2 ^ s.params.nowW ∧
  s.c.lastActivity < 2 ^ s.params.nowW ∧ s.c.lingerStart < 2 ^ s.params.nowW ∧ s.p.sendTime < 2 ^ s.params.nowW ∧
  (∀ x ∈ s.slots, x.lastActivity < 2 ^ s.params.nowW) ∧
  s.c.peerAddr < 2 ^ s.params.peerAddrW ∧ s.rxp.peer < 2 ^ s.params.peerAddrW ∧
  (∀ x ∈ s.slots, x.peerAddr < 2 ^ s.params.peerAddrW) ∧
  s.sticky.toNat < 2 ^ 8

/-- The unselected engine is at rest (R23, R40, R52): in initiator role every slot is free; in responder role the
sequencer is in IDLE with nothing outstanding. -/
abbrev RoleInv (s : State) : Prop :=
  (s.role = .initiator → ∀ x ∈ s.slots, x = Slot.free) ∧
  (s.role = .responder → s.c.state = .idle ∧ s.p = PendingSend.zero)

/-- What the initiator's four rows of R113 say of a packet, whatever the state: DATA has a payload and no other kind has
one, a SYN has `ack` 0 and id 0, and a FIN has `ack` 0. -/
def initiatorRow (q : Params) (k : Packet) : Bool :=
  match kindOf q k.flags with
  | .data => !k.payload.isEmpty
  | .fin => k.payload.isEmpty && k.ack == 0
  | .syn => k.payload.isEmpty && k.ack == 0 && k.connId == 0
  | .ack => k.payload.isEmpty
  | .finack => false
  | .synack => false
  | .rsvd => false

/-- What the responder's four rows of R113 say of a packet, whatever the state: the flags are those of an ACK, of a
SYNACK or `RSP_FIN_FLAGS`, the id is `i + 1` of a slot, and there is no payload. -/
def responderRow (q : Params) (k : Packet) : Bool :=
  (k.flags == flagsAck q || k.flags == flagsSynAck q || k.flags == q.rspFinFlags) &&
    decide (1 ≤ k.connId.toNat) && decide (k.connId.toNat ≤ q.nSlots) && k.payload.isEmpty

/-- A datagram that R113 allows a role to send: `HDR_LEN` to `MAX_DGRAM` bytes, `seq` and `ack` in range, and a row of
that role. -/
def legalDatagram (r : Role) (q : Params) (d : List Byte) : Bool :=
  match decodePacket q d with
  | none => false
  | some k =>
    decide (k.seq.toNat < q.maxSeq) && decide (k.ack.toNat < q.maxSeq) &&
      decide (k.payload.length ≤ q.maxPayload) &&
      (match r with
        | .initiator => initiatorRow q k
        | .responder => responderRow q k)

/-- Every datagram among the operations is legal. -/
def legalTransmissions (r : Role) (q : Params) : List PortOp → Bool
  | [] => true
  | .tx d _ :: rest => legalDatagram r q d && legalTransmissions r q rest
  | .sinkOpen _ :: rest => legalTransmissions r q rest
  | .sinkWrite _ _ :: rest => legalTransmissions r q rest
  | .sinkFlush _ :: rest => legalTransmissions r q rest
  | .sinkClose _ :: rest => legalTransmissions r q rest
  | .srcRead _ _ :: rest => legalTransmissions r q rest

/-- The packet of a row of R113 at the initiator, its fields read off the state after the event (no rule changes them
between the `Tx` and the end of the event). -/
abbrev InitiatorTransmits (t : State) (k : Packet) : Prop :=
  k = { seq := t.p.seq, ack := 0, connId := 0, flags := flagsSyn t.params, payload := [] } ∨
  (1 ≤ chunkLen t ∧
    k =
      { seq := t.c.localSeq, ack := t.c.peerAckExpected, connId := t.c.connId, flags := flagsData
        payload := Memory.readBytes t.io.src t.p.sourceOffset.toNat (chunkLen t) }) ∨
  k = { seq := t.c.localSeq, ack := 0, connId := t.c.connId, flags := flagsFin t.params, payload := [] } ∨
  k =
    { seq := addSeq t.params t.c.localSeq 1, ack := addSeq t.params t.rxp.seq 1, connId := t.c.connId
      flags := flagsAck t.params, payload := [] }

/-- The packet of a row of R113 at the responder, its `seq` and `ack` read off the slot after the event, or the slot freed
because a `Tx` of the event failed (R247). -/
abbrev ResponderTransmits (t : State) (k : Packet) : Prop :=
  ∃ i < t.slots.length,
    k.connId.toNat = i + 1 ∧ k.payload = [] ∧
    (k.flags = flagsAck t.params ∨ k.flags = t.params.rspFinFlags ∨
      (k.flags = flagsSynAck t.params ∧ k.ack = addSeq t.params t.rxp.seq 1)) ∧
    (t.slot i = Slot.free ∨ (k.seq = (t.slot i).seq ∧ k.ack = (t.slot i).ack))

/-- Whether the sink of an id is open after some operations, given whether it was open before (R290, R291). -/
def sinkOpenAfter (id : Word16) : Bool → List PortOp → Bool
  | b, [] => b
  | b, .sinkOpen j :: rest => sinkOpenAfter id (if j = id then true else b) rest
  | b, .sinkClose j :: rest => sinkOpenAfter id (if j = id then false else b) rest
  | b, .tx _ _ :: rest => sinkOpenAfter id b rest
  | b, .sinkWrite _ _ :: rest => sinkOpenAfter id b rest
  | b, .sinkFlush _ :: rest => sinkOpenAfter id b rest
  | b, .srcRead _ _ :: rest => sinkOpenAfter id b rest

/-- The operations use the sink of an id in the order R289 to R291 allow: opened only when closed; written, flushed and
closed only when open; no write is empty. -/
def sinkUseLegal (id : Word16) : Bool → List PortOp → Bool
  | _, [] => true
  | b, .sinkOpen j :: rest => if j = id then !b && sinkUseLegal id true rest else sinkUseLegal id b rest
  | b, .sinkClose j :: rest => if j = id then b && sinkUseLegal id false rest else sinkUseLegal id b rest
  | b, .sinkWrite j x :: rest => (j != id || (b && !x.isEmpty)) && sinkUseLegal id b rest
  | b, .sinkFlush j :: rest => (j != id || b) && sinkUseLegal id b rest
  | b, .tx _ _ :: rest => sinkUseLegal id b rest
  | b, .srcRead _ _ :: rest => sinkUseLegal id b rest

/-- The connection table holds the sink of this id open (R47). -/
def tableSinkOpen (s : State) (id : Word16) : Bool := s.slots.any (fun x => x.sinkOpen && x.connId == id)

/-- What the sink of an id holds after a trace (R289); `SinkOpen` starts a new, empty stream (R290, log 22). -/
def sinkContent (id : Word16) : List Byte → List PortOp → List Byte
  | acc, [] => acc
  | acc, .sinkOpen j :: rest => sinkContent id (if j = id then [] else acc) rest
  | acc, .sinkWrite j b :: rest => sinkContent id (if j = id then acc ++ b else acc) rest
  | acc, .sinkFlush _ :: rest => sinkContent id acc rest
  | acc, .sinkClose _ :: rest => sinkContent id acc rest
  | acc, .tx _ _ :: rest => sinkContent id acc rest
  | acc, .srcRead _ _ :: rest => sinkContent id acc rest

/-- Every `SrcRead` among the operations is one R287 allows: a multiple of `CHUNK`, 1 to `CHUNK` bytes, inside the
source. -/
def legalReads (q : Params) (srcLen : Nat) : List PortOp → Bool
  | [] => true
  | .srcRead off len :: rest =>
    decide (off % q.chunk = 0) && decide (1 ≤ len) && decide (len ≤ q.chunk) && decide (off + len ≤ srcLen) &&
      legalReads q srcLen rest
  | .tx _ _ :: rest => legalReads q srcLen rest
  | .sinkOpen _ :: rest => legalReads q srcLen rest
  | .sinkWrite _ _ :: rest => legalReads q srcLen rest
  | .sinkFlush _ :: rest => legalReads q srcLen rest
  | .sinkClose _ :: rest => legalReads q srcLen rest

/-- The state with the stored peer address of every slot blanked: what is left when an observer cannot see
`S[i].peer_addr` (R43, R253). -/
def hideSlotPeers (s : State) : State := s.setSlots (s.slots.map (fun x => { x with peerAddr := 0 }))

/-- `n` tick events with nothing between them. -/
def ticksOnly : Nat → State → State
  | 0, s => s
  | n + 1, s => ticksOnly n (eventTick s)

end Sys2Proof.Machine
end

