-- ==== Sys2Proof/Certificates/Slice0/Obligations.lean ====
section
/-! DEFINITION. The statements for the provers, spread over the rules of spec/: the codec (40_codec.md), the packet kinds
at the responder (43_responder.md) and at the initiator (42_initiator.md), the timers (41_timer.md), the host registers
and the errors (10_state.md, 60_exceptions.md), reset (70_reset_and_hazards.md), and the invariants every step keeps.
A statement whose conclusion is an equation `exec i s = .next t` fixes every field of the next state, so it is the
frame of the instruction too. -/

open Sys2Proof Sys2Proof.Machine

/-! ### Codec and classification -/

/-- R135: `DECODE` undoes `ENCODE` and `ENCODE` undoes `DECODE`, for every packet and datagram the codec's contract
covers, and both are injective there. -/
def Obligations.CodecRoundTripsBothWays : Prop :=
  ∀ q : Params, q.Wf →
    (∀ k : Packet, k.payload.length ≤ q.maxPayload →
      ∃ d, encodePacket q.maxPayload k = some d ∧ d.length = q.hdrLen + k.payload.length ∧
        decodePacket q d = some k ∧ ∀ peer, (packetRegOf q k peer).len = k.payload.length) ∧
    (∀ d : List Byte, q.hdrLen ≤ d.length → d.length ≤ q.hdrLen + q.maxPayload →
      ∃ k, decodePacket q d = some k ∧ encodePacket q.maxPayload k = some d ∧
        ∀ peer, (packetRegOf q k peer).n = d.length) ∧
    (∀ k k' d, encodePacket q.maxPayload k = some d → encodePacket q.maxPayload k' = some d → k = k') ∧
    (∀ d d' k, decodePacket q d = some k → decodePacket q d' = some k → d = d')

/-- Decode and encode agree on the instructions of the opcode table: every well-formed instruction comes back from its
datagram with every operand, and every datagram that decodes is the encoding of what it decodes to. -/
def Obligations.DecodeEncodeAgreeOnInstructions : Prop :=
  ∀ q : Params, q.Wf →
    (∀ i : Instr, i.Wf q.maxPayload →
      encodePacket q.maxPayload (instrPacket q i) = some (encode q i) ∧ decode q (encode q i) = .ok i) ∧
    (∀ (d : List Byte) (i : Instr), decode q d = .ok i → encode q i = d)

/-- Under the parameters of R5, the worked header of each rule R144 to R149 decodes to its instruction. The last two clauses
are the model's convention (log 15), not a rule of the spec: `decode`, which gives instructions of the opcode table, refuses by
name the reserved flags values of two more headers (those of R150's example and V23). `DECODE` itself, `decodePacket`,
accepts them (R134), and the step drops them as R150 says (`Obligations.StepDropsWhatIsNotExecuted`). -/
def Obligations.WorkedHeadersDecode : Prop :=
  decode Params.default [0x00, 0x00, 0x03, 0xE9, 0x00, 0x00, 0x0F, 0xA1, 0x00, 0x01, 0x00, 0x00] =
    .ok (.data 1001 4001 1 []) ∧
  decode Params.default [0x00, 0x00, 0x08, 0xFD, 0x00, 0x00, 0x00, 0x00, 0x00, 0x01, 0x00, 0x01] =
    .ok (.fin 2301 0 1 []) ∧
  decode Params.default [0x00, 0x00, 0x03, 0xE8, 0x00, 0x00, 0x00, 0x00, 0x00, 0x00, 0x00, 0x02] =
    .ok (.syn 1000 0 0 []) ∧
  decode Params.default [0x00, 0x00, 0x0F, 0xA1, 0x00, 0x00, 0x05, 0xE9, 0x00, 0x01, 0x00, 0x04] =
    .ok (.ack 4001 1513 1 []) ∧
  decode Params.default [0x00, 0x00, 0x0F, 0xA1, 0x00, 0x00, 0x08, 0xFE, 0x00, 0x01, 0x00, 0x05] =
    .ok (.finack 4001 2302 1 []) ∧
  decode Params.default [0x00, 0x00, 0x0F, 0xA0, 0x00, 0x00, 0x03, 0xE9, 0x00, 0x01, 0x00, 0x06] =
    .ok (.synack 4000 1001 1 []) ∧
  decode Params.default [0x00, 0x00, 0x00, 0x00, 0x00, 0x00, 0x00, 0x00, 0x00, 0x01, 0x00, 0x03] =
    .error (.reservedFlags 3) ∧
  decode Params.default [0xFF, 0xFF, 0xFF, 0xFF, 0x01, 0x02, 0x03, 0x04, 0xAB, 0xCD, 0x80, 0x07, 0x00] =
    .error (.reservedFlags 0x8007)

/-- R103, R104 and R315: every header field is the big-endian integer of its bytes, the payload is every byte from offset
`HDR_LEN`, and its length is the datagram's less `HDR_LEN`; `DECODE` gives no packet exactly for fewer bytes than that,
and `HDR_LEN` is 12. -/
def Obligations.DecodeReadsBigEndianFields : Prop :=
  ∀ q : Params, q.Wf →
    q.hdrLen = 12 ∧ (∀ d : List Byte, decodePacket q d = none ↔ d.length < q.hdrLen) ∧
    ∀ (d : List Byte) (k : Packet), decodePacket q d = some k →
      k.seq.toNat =
        2 ^ 24 * (d.getD 0 0).toNat + 2 ^ 16 * (d.getD 1 0).toNat + 2 ^ 8 * (d.getD 2 0).toNat + (d.getD 3 0).toNat ∧
      k.ack.toNat =
        2 ^ 24 * (d.getD 4 0).toNat + 2 ^ 16 * (d.getD 5 0).toNat + 2 ^ 8 * (d.getD 6 0).toNat + (d.getD 7 0).toNat ∧
      k.connId.toNat = 256 * (d.getD 8 0).toNat + (d.getD 9 0).toNat ∧
      k.flags.toNat = 256 * (d.getD 10 0).toNat + (d.getD 11 0).toNat ∧
      k.payload = d.drop q.hdrLen ∧ k.payload.length = d.length - q.hdrLen

/-- R107: classification is by equality of the whole flags value, looks at nothing else, and gives the instruction of
that row. The first clause is R107: with the flag bit values of R5 and R102 the listed values are 0, 1, 2, 4, 5 and 6,
whatever the other parameters. The second clause is the model's choice (log 4), not a rule of the spec: with any other
well-formed flag bits, which R5 lets a configuration have, the listed values are 0, the three flags, FIN joined with ACK
and SYN joined with ACK. -/
def Obligations.ClassificationIsByEqualityOfFlags : Prop :=
  (∀ (q : Params) (k : Packet), q.flagFin = 1 → q.flagSyn = 2 → q.flagAck = 4 →
    (k.flags = 0 → kindOf q k.flags = .data ∧ classifyPacket q k = some (.data k.seq k.ack k.connId k.payload)) ∧
    (k.flags = 1 → kindOf q k.flags = .fin ∧ classifyPacket q k = some (.fin k.seq k.ack k.connId k.payload)) ∧
    (k.flags = 2 → kindOf q k.flags = .syn ∧ classifyPacket q k = some (.syn k.seq k.ack k.connId k.payload)) ∧
    (k.flags = 4 → kindOf q k.flags = .ack ∧ classifyPacket q k = some (.ack k.seq k.ack k.connId k.payload)) ∧
    (k.flags = 5 → kindOf q k.flags = .finack ∧ classifyPacket q k = some (.finack k.seq k.ack k.connId k.payload)) ∧
    (k.flags = 6 → kindOf q k.flags = .synack ∧ classifyPacket q k = some (.synack k.seq k.ack k.connId k.payload)) ∧
    (k.flags ≠ 0 → k.flags ≠ 1 → k.flags ≠ 2 → k.flags ≠ 4 → k.flags ≠ 5 → k.flags ≠ 6 →
      kindOf q k.flags = .rsvd ∧ classifyPacket q k = none)) ∧
  ∀ (q : Params) (f : Word16), q.Wf →
    (kindOf q f = .data ↔ f = 0) ∧ (kindOf q f = .fin ↔ f = q.flagFin) ∧ (kindOf q f = .syn ↔ f = q.flagSyn) ∧
    (kindOf q f = .ack ↔ f = q.flagAck) ∧ (kindOf q f = .finack ↔ f = q.flagFin ||| q.flagAck) ∧
    (kindOf q f = .synack ↔ f = q.flagSyn ||| q.flagAck)

/-- R132 and R333: a payload longer than `MAX_PAYLOAD` is refused, nothing is handed to the TX port and `ENC_LEN` is
set; with well-formed parameters no step ever sets the bit. -/
def Obligations.EncodeRefusalSetsEncLenAndIsUnreachable : Prop :=
  (∀ (s : State) (k : Packet) (dest : Nat), s.params.maxPayload < k.payload.length →
    encodePacket s.params.maxPayload k = none ∧
    (transmit k dest s).2 = { s with txp := packetRegOf s.params k dest, sticky := stickyWith .encLen s.sticky } ∧
    (transmit k dest s).2.stickyBit .encLen = true) ∧
  ∀ s t : State, s.params.Wf → step s = .next t → s.stickyBit .encLen = false → t.stickyBit .encLen = false

/-- R140: `add_seq` is the sum over the natural numbers reduced modulo `MAX_SEQ`, always in range; with the worked
examples of R140 and R143. -/
def Obligations.AddSeqIsNaturalSumModulo : Prop :=
  (∀ (q : Params) (a : Word32) (n : Nat), q.Wf →
    (addSeq q a n).toNat = (a.toNat + n) % q.maxSeq ∧ (addSeq q a n).toNat < q.maxSeq) ∧
  addSeq Params.default 25599 2 = 1 ∧ addSeq Params.default 25599 1 = 0 ∧ addSeq Params.default 25088 512 = 0 ∧
  addSeq Params.default 25400 512 = 312 ∧ addSeq Params.default 1001 0 = 1001 ∧
  addSeq Params.default 0xFFFFFFFF 1 = 4096 ∧ addSeq Params.default 25600 1 = 1

/-! ### The responder -/

/-- R239 to R242, R249, R253: a DATA or ACK that finds an open slot. In order, its payload is appended and flushed and
`ack` advances; out of order it is discarded; either way the slot's `seq` is reconciled and one pure ACK goes to the
sender. Nothing else changes. -/
def Obligations.DataAndAckAtOpenSlot : Prop :=
  ∀ (s : State) (seq ack : Word32) (id : Word16) (b : List Byte) (n : Nat),
    s.role = .responder → lookupSlot s id = some n → (s.slot n).finObserved = false → txOutcome s = .ok →
    let x := s.slot n
    let x' : Slot :=
      { x with
        ack := if seq = x.ack then addSeq s.params x.ack b.length else x.ack
        seq := if ack ≠ x.seq ∧ ack = addSeq s.params x.seq 1 then addSeq s.params x.seq 1 else x.seq
        lastActivity := s.now }
    let sink := if seq = x.ack ∧ b ≠ [] then [PortOp.sinkWrite x.connId b, PortOp.sinkFlush x.connId] else []
    let k : Packet := { seq := x'.seq, ack := x'.ack, connId := x.connId, flags := s.params.flagAck, payload := [] }
    let t : State :=
      { s with
        slots := s.slots.set n x'
        txp := packetRegOf s.params k s.rxp.peer
        io :=
          { s.io with
            trace := s.io.trace ++ (sink ++ [.tx (packetBytes k) s.rxp.peer])
            txResults := s.io.txResults.tail } }
    exec (.data seq ack id b) s = .next t ∧ exec (.ack seq ack id b) s = .next t

/-- R239, R240, R289: whatever its reply's `Tx` does, a DATA or ACK at an open slot appends its payload to the sink of its
id when it is in order, appends nothing otherwise, and touches no other sink's content (a sink starts empty when it is
opened: log 22). -/
def Obligations.SinkReceivesInOrderPayloadOnly : Prop :=
  ∀ (s t t' : State) (seq ack : Word32) (id : Word16) (b : List Byte) (n : Nat),
    s.role = .responder → lookupSlot s id = some n → (s.slot n).finObserved = false →
    exec (.data seq ack id b) s = .next t → exec (.ack seq ack id b) s = .next t' →
    let written := if seq = (s.slot n).ack then b else []
    sinkContent id [] t.io.trace = sinkContent id [] s.io.trace ++ written ∧
    sinkContent id [] t'.io.trace = sinkContent id [] s.io.trace ++ written ∧
    ∀ j, j ≠ id →
      sinkContent j [] t.io.trace = sinkContent j [] s.io.trace ∧
      sinkContent j [] t'.io.trace = sinkContent j [] s.io.trace

/-- R238: a DATA or ACK that finds a slot which has observed a FIN closes the sink if it is still open and delivers
nothing; the ACK frees the slot, the DATA leaves it in use with a new activity stamp. No reply is sent. -/
def Obligations.DataAndAckAtClosingSlot : Prop :=
  ∀ (s : State) (seq ack : Word32) (id : Word16) (b : List Byte) (n : Nat),
    s.role = .responder → lookupSlot s id = some n → (s.slot n).finObserved = true →
    let x := s.slot n
    let io : Ports :=
      { s.io with trace := s.io.trace ++ (if x.sinkOpen then [.sinkClose x.connId] else []) }
    exec (.data seq ack id b) s =
      .next { s with slots := s.slots.set n { x with sinkOpen := false, lastActivity := s.now }, io := io } ∧
    exec (.ack seq ack id b) s = .next { s with slots := s.slots.set n Slot.free, io := io }

/-- R237: a DATA, ACK or FIN whose id no in-use slot has sets `LOOKUP_MISS` and does nothing else. -/
def Obligations.LookupMissDropsPacket : Prop :=
  ∀ (s : State) (seq ack : Word32) (id : Word16) (b : List Byte),
    s.role = .responder → (∀ x ∈ s.slots, x.inUse = true → x.connId ≠ id) →
    let t : State := { s with sticky := stickyWith .lookupMiss s.sticky }
    exec (.data seq ack id b) s = .next t ∧ exec (.ack seq ack id b) s = .next t ∧
      exec (.fin seq ack id b) s = .next t

/-- R234, R251: a SYN takes the candidate slot the scan gives: an expired slot's open sink is closed first, the whole
record is written anew with a fresh draw, the sink is opened and a SYNACK goes to the sender. -/
def Obligations.SynAllocatesSlotAndReplies : Prop :=
  ∀ (s : State) (seq ack : Word32) (id : Word16) (b : List Byte) (n : Nat),
    s.role = .responder → findCandidate s = some n → txOutcome s = .ok →
    let old := s.slot n
    let x : Slot :=
      { inUse := true, connId := BitVec.ofNat 16 (n + 1), peerAddr := s.rxp.peer
        seq := BitVec.ofNat 32 ((drawValue s).toNat % s.params.maxSeq), ack := addSeq s.params seq 1
        finObserved := false, sinkOpen := true, lastActivity := s.now }
    let k : Packet :=
      { seq := x.seq, ack := x.ack, connId := x.connId, flags := s.params.flagSyn ||| s.params.flagAck, payload := [] }
    exec (.syn seq ack id b) s =
      .next
        { s with
          slots := s.slots.set n x
          txp := packetRegOf s.params k s.rxp.peer
          io :=
            { s.io with
              trace :=
                s.io.trace ++ ((if old.inUse ∧ old.sinkOpen then [.sinkClose old.connId] else []) ++
                  [.sinkOpen x.connId, .tx (packetBytes k) s.rxp.peer])
              draws := s.io.draws.tail
              txResults := s.io.txResults.tail } }

/-- R235: a SYN that finds no candidate slot sets `TBL_FULL` and changes nothing else; no draw is consumed. -/
def Obligations.SynWithFullTableIsDropped : Prop :=
  ∀ (s : State) (seq ack : Word32) (id : Word16) (b : List Byte),
    s.role = .responder →
    (∀ x ∈ s.slots, x.inUse = true ∧ elapsed s.params s.now x.lastActivity < inactTicks s.params) →
    exec (.syn seq ack id b) s = .next { s with sticky := stickyWith .tblFull s.sticky }

/-- R232 and R233: the scan gives the lowest index whose slot is free or has been inactive for `T_INACT`. -/
def Obligations.SynScanTakesLowestCandidate : Prop :=
  ∀ (s : State) (n : Nat),
    findCandidate s = some n ↔
      n < s.slots.length ∧
      ((s.slot n).inUse = false ∨ inactTicks s.params ≤ elapsed s.params s.now (s.slot n).lastActivity) ∧
      ∀ j < n, (s.slot j).inUse = true ∧ elapsed s.params s.now (s.slot j).lastActivity < inactTicks s.params

/-- R80: in a table that meets its invariants the id of a packet names slot `id - 1` when that slot is in use, and
nothing otherwise. -/
def Obligations.IdTranslatesToSlotBelow : Prop :=
  ∀ (s : State) (id : Word16) (n : Nat), s.params.Wf → TableInv s →
    (lookupSlot s id = some n ↔ id.toNat = n + 1 ∧ n < s.params.nSlots ∧ (s.slot n).inUse = true)

/-- R243 to R245: a FIN that finds its slot: `ack` advances by one when the FIN is in order, an ACK and then the FIN
packet go to the sender, the slot is marked and its sink closed. -/
def Obligations.FinAnsweredTwiceAndMarked : Prop :=
  ∀ (s : State) (seq ack : Word32) (id : Word16) (b : List Byte) (n : Nat),
    s.role = .responder → lookupSlot s id = some n → txOutcome s = .ok → s.io.txResults.tail.head = .ok →
    let x := s.slot n
    let a := if seq = x.ack then addSeq s.params x.ack 1 else x.ack
    let k : Packet := { seq := x.seq, ack := a, connId := x.connId, flags := s.params.flagAck, payload := [] }
    let f : Packet := { seq := x.seq, ack := a, connId := x.connId, flags := s.params.rspFinFlags, payload := [] }
    exec (.fin seq ack id b) s =
      .next
        { s with
          slots :=
            s.slots.set n { x with ack := a, finObserved := true, sinkOpen := false, lastActivity := s.now }
          txp := packetRegOf s.params f s.rxp.peer
          io :=
            { s.io with
              trace :=
                s.io.trace ++ ([.tx (packetBytes k) s.rxp.peer, .tx (packetBytes f) s.rxp.peer] ++
                  (if x.sinkOpen then [.sinkClose x.connId] else []))
              txResults := s.io.txResults.tail.tail } }

/-- R247 for DATA and ACK: a reply whose `Tx` fails closes the slot's sink, frees the slot and sets `SLOT_ABORT`. What
was delivered before it stays delivered. -/
def Obligations.FailedAckReplyAbortsSlot : Prop :=
  ∀ (s : State) (seq ack : Word32) (id : Word16) (b : List Byte) (n : Nat),
    s.role = .responder → lookupSlot s id = some n → (s.slot n).finObserved = false → txOutcome s = .fail →
    let x := s.slot n
    let a := if seq = x.ack then addSeq s.params x.ack b.length else x.ack
    let q := if ack ≠ x.seq ∧ ack = addSeq s.params x.seq 1 then addSeq s.params x.seq 1 else x.seq
    let sink := if seq = x.ack ∧ b ≠ [] then [PortOp.sinkWrite x.connId b, PortOp.sinkFlush x.connId] else []
    let k : Packet := { seq := q, ack := a, connId := x.connId, flags := s.params.flagAck, payload := [] }
    let t : State :=
      { s with
        slots := s.slots.set n Slot.free
        sticky := stickyWith .slotAbort s.sticky
        txp := packetRegOf s.params k s.rxp.peer
        io :=
          { s.io with
            trace :=
              s.io.trace ++ (sink ++ [.tx (packetBytes k) s.rxp.peer] ++
                (if x.sinkOpen then [.sinkClose x.connId] else []))
            txResults := s.io.txResults.tail } }
    exec (.data seq ack id b) s = .next t ∧ exec (.ack seq ack id b) s = .next t

/-- R247 for SYN and FIN: a failed SYNACK closes the sink just opened and frees the slot (a reclaimed slot's old sink has
been closed before, R234); of a FIN's two replies, when
the first fails the second is not attempted, and when the second fails the slot is freed after both were handed over. -/
def Obligations.FailedSynackOrFinReplyAbortsSlot : Prop :=
  ∀ (s : State) (seq ack : Word32) (id : Word16) (b : List Byte) (n : Nat), s.role = .responder →
    (findCandidate s = some n → txOutcome s = .fail →
      let old := s.slot n
      let isn : Word32 := BitVec.ofNat 32 ((drawValue s).toNat % s.params.maxSeq)
      let sid : Word16 := BitVec.ofNat 16 (n + 1)
      let k : Packet :=
        { seq := isn, ack := addSeq s.params seq 1, connId := sid, flags := s.params.flagSyn ||| s.params.flagAck
          payload := [] }
      exec (.syn seq ack id b) s =
        .next
          { s with
            slots := s.slots.set n Slot.free
            sticky := stickyWith .slotAbort s.sticky
            txp := packetRegOf s.params k s.rxp.peer
            io :=
              { s.io with
                trace :=
                  s.io.trace ++ ((if old.inUse ∧ old.sinkOpen then [.sinkClose old.connId] else []) ++
                    [.sinkOpen sid, .tx (packetBytes k) s.rxp.peer, .sinkClose sid])
                draws := s.io.draws.tail
                txResults := s.io.txResults.tail } }) ∧
    (lookupSlot s id = some n →
      let x := s.slot n
      let a := if seq = x.ack then addSeq s.params x.ack 1 else x.ack
      let k : Packet := { seq := x.seq, ack := a, connId := x.connId, flags := s.params.flagAck, payload := [] }
      let f : Packet := { seq := x.seq, ack := a, connId := x.connId, flags := s.params.rspFinFlags, payload := [] }
      let close := if x.sinkOpen then [PortOp.sinkClose x.connId] else []
      (txOutcome s = .fail →
        exec (.fin seq ack id b) s =
          .next
            { s with
              slots := s.slots.set n Slot.free
              sticky := stickyWith .slotAbort s.sticky
              txp := packetRegOf s.params k s.rxp.peer
              io :=
                { s.io with
                  trace := s.io.trace ++ ([.tx (packetBytes k) s.rxp.peer] ++ close)
                  txResults := s.io.txResults.tail } }) ∧
      (txOutcome s = .ok → s.io.txResults.tail.head = .fail →
        exec (.fin seq ack id b) s =
          .next
            { s with
              slots := s.slots.set n Slot.free
              sticky := stickyWith .slotAbort s.sticky
              txp := packetRegOf s.params f s.rxp.peer
              io :=
                { s.io with
                  trace :=
                    s.io.trace ++
                      ([.tx (packetBytes k) s.rxp.peer, .tx (packetBytes f) s.rxp.peer] ++ close)
                  txResults := s.io.txResults.tail.tail } }))

/-- R248: SYNACK and FINACK at the responder set `RSVD_FLAGS` and do nothing else. -/
def Obligations.ResponderDropsSynackAndFinack : Prop :=
  ∀ (s : State) (seq ack : Word32) (id : Word16) (b : List Byte), s.role = .responder →
    let t : State := { s with sticky := stickyWith .rsvdFlags s.sticky }
    exec (.synack seq ack id b) s = .next t ∧ exec (.finack seq ack id b) s = .next t

/-- R252, whatever the `Tx` of the event answer: only the slot the packet's rule serves may change, and none where no slot is
found; at most two datagrams for a FIN, one for a SYN, DATA or ACK and none otherwise; at most one `SinkOpen`,
`SinkWrite` and `SinkFlush`, the writes and flushes before every `Tx`; at most one draw, and for a SYN only. `SinkClose`
occurs at most once and not after a `SinkOpen`, but for a SYN whose SYNACK fails, where R234 and R247 allow a second one
(log 22). -/
def Obligations.ResponderEventBounds : Prop :=
  ∀ (i : Instr) (s t : State), s.role = .responder → exec i s = .next t →
    t.slots.length = s.slots.length ∧ (∀ j, servedSlot i s ≠ some j → t.slot j = s.slot j) ∧
    (t.io.draws = s.io.draws ∨ (instrIsSyn i = true ∧ t.io.draws = s.io.draws.tail)) ∧
    ∃ ops, t.io.trace = s.io.trace ++ ops ∧
      ops.countP PortOp.isTx ≤ replyBound i ∧
      ops.countP PortOp.isSinkOpen ≤ 1 ∧ ops.countP PortOp.isSinkWrite ≤ 1 ∧
      ops.countP PortOp.isSinkFlush ≤ 1 ∧ ops.countP PortOp.isSinkClose ≤ 2 ∧
      (instrIsSyn i = false ∨ txOutcome s = .ok → ops.countP PortOp.isSinkClose ≤ 1) ∧
      (∀ a b d dest, ops = a ++ .tx d dest :: b →
        b.countP PortOp.isSinkWrite = 0 ∧ b.countP PortOp.isSinkFlush = 0) ∧
      ∀ a b id, ops = a ++ .sinkOpen id :: b → txOutcome s = .ok → b.countP PortOp.isSinkClose = 0

/-! ### The initiator -/

/-- R188, R189: a SYNACK in SYN_SENT with the matching `ack`: the numbers and the id are adopted and chunk 0 is sent, or
the FIN when the source is empty. Its payload and sender take no part. -/
def Obligations.SynackEstablishesAndSends : Prop :=
  ∀ (s : State) (seq ack : Word32) (id : Word16) (b : List Byte),
    s.role = .initiator → s.c.state = .synSent → s.params.Wf → txOutcome s = .ok →
    ack = addSeq s.params s.c.localSeq 1 →
    let pae := addSeq s.params seq 1
    let len := min s.params.chunk s.c.srcLen.toNat
    let c : Conn :=
      { s.c with localSeq := ack, peerAckExpected := pae, connId := id, lastActivity := s.now }
    let k : Packet :=
      { seq := ack, ack := pae, connId := id, flags := 0, payload := Memory.readBytes s.io.src 0 len }
    let f : Packet := { seq := ack, ack := 0, connId := id, flags := s.params.flagFin, payload := [] }
    (s.c.srcLen ≠ 0 →
      exec (.synack seq ack id b) s =
        .next
          { s with
            c := { c with state := .established }
            p := { valid := true, seq := ack, ack := pae, sendTime := s.now, sourceOffset := 0 }
            txp := packetRegOf s.params k s.c.peerAddr
            io :=
              { s.io with
                trace := s.io.trace ++ [.srcRead 0 len, .tx (packetBytes k) s.c.peerAddr]
                txResults := s.io.txResults.tail } }) ∧
    (s.c.srcLen = 0 →
      exec (.synack seq ack id b) s =
        .next
          { s with
            c := { c with state := .finSent }
            p := { valid := true, seq := ack, ack := 0, sendTime := s.now, sourceOffset := 0 }
            txp := packetRegOf s.params f s.c.peerAddr
            io :=
              { s.io with
                trace := s.io.trace ++ [.tx (packetBytes f) s.c.peerAddr]
                txResults := s.io.txResults.tail } })

/-- R191, R195: the expected ACK in ESTABLISHED advances `local_seq` by the chunk and sends the next chunk, or the FIN
when no bytes remain. -/
def Obligations.ExpectedAckAdvances : Prop :=
  ∀ (s : State) (seq ack : Word32) (id : Word16) (b : List Byte),
    s.role = .initiator → s.c.state = .established → s.params.Wf → txOutcome s = .ok →
    ack = addSeq s.params s.c.localSeq (chunkLen s) →
    let off := nextOffset s
    let len := min s.params.chunk (s.c.srcLen.toNat - off.toNat)
    let c : Conn := { s.c with localSeq := ack, lastActivity := s.now }
    let k : Packet :=
      { seq := ack, ack := s.c.peerAckExpected, connId := s.c.connId, flags := 0
        payload := Memory.readBytes s.io.src off.toNat len }
    let f : Packet := { seq := ack, ack := 0, connId := s.c.connId, flags := s.params.flagFin, payload := [] }
    (off ≠ s.c.srcLen →
      exec (.ack seq ack id b) s =
        .next
          { s with
            c := c
            p :=
              { valid := true, seq := ack, ack := s.c.peerAckExpected, sendTime := s.now, sourceOffset := off }
            txp := packetRegOf s.params k s.c.peerAddr
            io :=
              { s.io with
                trace := s.io.trace ++ [.srcRead off.toNat len, .tx (packetBytes k) s.c.peerAddr]
                txResults := s.io.txResults.tail } }) ∧
    (off = s.c.srcLen →
      exec (.ack seq ack id b) s =
        .next
          { s with
            c := { c with state := .finSent }
            p := { valid := true, seq := ack, ack := 0, sendTime := s.now, sourceOffset := off }
            txp := packetRegOf s.params f s.c.peerAddr
            io :=
              { s.io with
                trace := s.io.trace ++ [.tx (packetBytes f) s.c.peerAddr]
                txResults := s.io.txResults.tail } })

/-- R192: every other ACK in ESTABLISHED sends the current chunk again at once and restarts the round; nothing is
advanced. -/
def Obligations.UnexpectedAckResendsChunk : Prop :=
  ∀ (s : State) (seq ack : Word32) (id : Word16) (b : List Byte),
    s.role = .initiator → s.c.state = .established → s.params.Wf → txOutcome s = .ok →
    ack ≠ addSeq s.params s.c.localSeq (chunkLen s) →
    let k : Packet :=
      { seq := s.p.seq, ack := s.p.ack, connId := s.c.connId, flags := 0
        payload := Memory.readBytes s.io.src s.p.sourceOffset.toNat (chunkLen s) }
    exec (.ack seq ack id b) s =
      .next
        { s with
          c := { s.c with lastActivity := s.now }
          p := { s.p with sendTime := s.now }
          txp := packetRegOf s.params k s.c.peerAddr
          io :=
            { s.io with
              trace :=
                s.io.trace ++
                  [.srcRead s.p.sourceOffset.toNat (chunkLen s), .tx (packetBytes k) s.c.peerAddr]
              txResults := s.io.txResults.tail } }

/-- R197, R198: a bare FIN, or a FINACK with the matching `ack`, in FIN_SENT: the round timer stops, the linger window
opens and the final ACK is sent; `local_seq` is unchanged. -/
def Obligations.PeerFinOpensLinger : Prop :=
  ∀ (s : State) (seq ack : Word32) (id : Word16) (b : List Byte),
    s.role = .initiator → s.c.state = .finSent → txOutcome s = .ok →
    let k : Packet :=
      { seq := addSeq s.params s.c.localSeq 1, ack := addSeq s.params seq 1, connId := s.c.connId
        flags := s.params.flagAck, payload := [] }
    let t : State :=
      { s with
        c := { s.c with state := .linger, lingerStart := s.now, lastActivity := s.now }
        p := { s.p with valid := false }
        txp := packetRegOf s.params k s.c.peerAddr
        io :=
          { s.io with
            trace := s.io.trace ++ [.tx (packetBytes k) s.c.peerAddr]
            txResults := s.io.txResults.tail } }
    exec (.fin seq ack id b) s = .next t ∧
    (ack = addSeq s.params s.c.localSeq 1 → exec (.finack seq ack id b) s = .next t)

/-- R200: in LINGER a further peer FIN is answered with a fresh final ACK; the state and `linger_start` stay. -/
def Obligations.LingerAnswersPeerFin : Prop :=
  ∀ (s : State) (seq ack : Word32) (id : Word16) (b : List Byte),
    s.role = .initiator → s.c.state = .linger → txOutcome s = .ok →
    let k : Packet :=
      { seq := addSeq s.params s.c.localSeq 1, ack := addSeq s.params seq 1, connId := s.c.connId
        flags := s.params.flagAck, payload := [] }
    let t : State :=
      { s with
        c := { s.c with lastActivity := s.now }
        txp := packetRegOf s.params k s.c.peerAddr
        io :=
          { s.io with
            trace := s.io.trace ++ [.tx (packetBytes k) s.c.peerAddr]
            txResults := s.io.txResults.tail } }
    exec (.fin seq ack id b) s = .next t ∧
    (ack = addSeq s.params s.c.localSeq 1 → exec (.finack seq ack id b) s = .next t)

/-- R166, R182, R193: DATA and SYN at the initiator in an active state refresh `last_activity` and set `RSVD_FLAGS`; a
kind the state does not expect refreshes `last_activity` only. -/
def Obligations.InitiatorDropsUnexpectedKinds : Prop :=
  ∀ (s : State) (seq ack : Word32) (id : Word16) (b : List Byte),
    s.role = .initiator → s.c.state.active = true →
    let t : State := { s with c := { s.c with lastActivity := s.now } }
    let r : State := { t with sticky := stickyWith .rsvdFlags s.sticky }
    exec (.data seq ack id b) s = .next r ∧ exec (.syn seq ack id b) s = .next r ∧
    (s.c.state ≠ .synSent ∨ ack ≠ addSeq s.params s.c.localSeq 1 → exec (.synack seq ack id b) s = .next t) ∧
    (s.c.state ≠ .established → exec (.ack seq ack id b) s = .next t) ∧
    (s.c.state = .synSent ∨ s.c.state = .established →
      exec (.fin seq ack id b) s = .next t ∧ exec (.finack seq ack id b) s = .next t) ∧
    (ack ≠ addSeq s.params s.c.localSeq 1 → exec (.finack seq ack id b) s = .next t)

/-- R204, R311: in every event of the initiator that transmits (a packet, `E_START`, the retransmission of a tick), when the
`Tx` fails nothing more is handed over, the writes made earlier in the event stand as they do when it succeeds, and the
connection is CLOSED with `ERR_TRANSPORT` and nothing outstanding. -/
def Obligations.InitiatorTxFailureCloses : Prop :=
  ∀ s : State, s.role = .initiator → txOutcome s = .fail →
    let s' : State :=
      { s with
        io :=
          { s.io with
            txResults := { front := .ok :: s.io.txResults.front.tail, rest := s.io.txResults.rest } } }
    let closes := fun t u : State =>
      (issuedOps s t).countP PortOp.isTx ≤ 1 ∧
      ((issuedOps s t).countP PortOp.isTx = 1 →
        t =
          { u with
            c := { u.c with state := .closed, result := .errTransport }
            p := { u.p with valid := false } })
    (∀ (i : Instr) (t u : State), exec i s = .next t → exec i s' = .next u → closes t u) ∧
    closes (eventStart s) (eventStart s') ∧ closes (eventTick s) (eventTick s')

/-- R202: in IDLE and CLOSED a packet changes nothing (the step discards the datagram undecoded; what `exec` does there is
the model's choice, log 21). -/
def Obligations.InitiatorIdleAndClosedIgnorePackets : Prop :=
  ∀ (i : Instr) (s : State), s.role = .initiator → s.c.state = .idle ∨ s.c.state = .closed → exec i s = .next s

/-- R207, R111: the initiator's reaction does not depend on the id or the payload of a packet, nor on its sender, nor on the
`seq` of an ACK, except that the id of an accepted SYNACK is recorded (R189); a DATA or a SYN is dropped whatever its
operands, and so is a SYNACK that is not accepted, whatever its id, `seq` and payload. -/
def Obligations.InitiatorIgnoresIdAndSender : Prop :=
  ∀ (s : State) (seq seq' ack ack' : Word32) (id id' : Word16) (b b' : List Byte) (r : PacketReg),
    s.role = .initiator →
    exec (.ack seq ack id b) s = exec (.ack seq' ack id' b') s ∧
    exec (.fin seq ack id b) s = exec (.fin seq ack id' b') s ∧
    exec (.finack seq ack id b) s = exec (.finack seq ack id' b') s ∧
    exec (.synack seq ack id b) s = exec (.synack seq ack id b') s ∧
    (s.c.state ≠ .synSent ∨ ack ≠ addSeq s.params s.c.localSeq 1 →
      exec (.synack seq ack id b) s = exec (.synack seq' ack id' b') s) ∧
    exec (.data seq ack id b) s = exec (.data seq' ack' id' b') s ∧
    exec (.syn seq ack id b) s = exec (.syn seq' ack' id' b') s ∧
    ∀ i t, exec i s = .next t → exec i (s.setRxp r) = .next (t.setRxp r)

/-- R186, R254: `E_START` in every role and state: the size check, then the ISN, the SYN and both timers. -/
def Obligations.StartSendsSynOrRejectsOversize : Prop :=
  ∀ s : State,
    (s.role = .responder ∨ s.c.state ≠ .idle → eventStart s = s) ∧
    (s.role = .initiator → s.c.state = .idle →
      (s.params.maxXfer < s.c.srcLen.toNat →
        eventStart s =
          { s with
            c := { s.c with state := .closed, result := .errOversize }
            p := { s.p with valid := false } }) ∧
      (s.c.srcLen.toNat ≤ s.params.maxXfer →
        let isn : Word32 := BitVec.ofNat 32 ((drawValue s).toNat % s.params.maxSeq)
        let k : Packet := { seq := isn, ack := 0, connId := 0, flags := s.params.flagSyn, payload := [] }
        let t : State :=
          { s with
            c := { s.c with state := .synSent, localSeq := isn, lastActivity := s.now }
            p := { valid := true, seq := isn, ack := 0, sendTime := s.now, sourceOffset := 0 }
            txp := packetRegOf s.params k s.c.peerAddr
            io :=
              { s.io with
                trace := s.io.trace ++ [.tx (packetBytes k) s.c.peerAddr]
                draws := s.io.draws.tail
                txResults := s.io.txResults.tail } }
        (txOutcome s = .ok → eventStart s = t) ∧
        (txOutcome s = .fail →
          eventStart s =
            { t with
              c := { t.c with state := .closed, result := .errTransport }
              p := { t.p with valid := false } })))

/-- R208, R254: `E_RXERR` is fatal for an active initiator, ignored by one in IDLE or CLOSED, and sets `RX_ERR` on the
responder. -/
def Obligations.ReceiveErrorByRole : Prop :=
  ∀ s : State,
    (s.role = .initiator → s.c.state.active = true →
      eventRxErr s =
        { s with
          c := { s.c with state := .closed, result := .errTransport }
          p := { s.p with valid := false } }) ∧
    (s.role = .initiator → s.c.state.active = false → eventRxErr s = s) ∧
    (s.role = .responder → eventRxErr s = { s with sticky := stickyWith .rxErr s.sticky })

/-! ### Time -/

/-- R152, R165: elapsed time is the difference modulo `2^NOW_W`, and a deadline of `T` ticks is expired exactly when it
is at least `T`; so with `now` past the start a deadline is first expired `T` ticks after it. -/
def Obligations.DeadlineExpiresAfterItsTicks : Prop :=
  ∀ (q : Params) (now t0 t : Nat), now < 2 ^ q.nowW → t0 < 2 ^ q.nowW →
    (((elapsed q now t0 : Nat) : Int) = ((now : Int) - (t0 : Int)) % (2 ^ q.nowW : Int)) ∧
    (expired q now t0 t = true ↔ t ≤ elapsed q now t0) ∧
    (t0 ≤ now → (expired q now t0 t = true ↔ t0 + t ≤ now))

/-- R168, R250: `E_TICK` counts, and on the initiator the abort deadline comes before linger and linger before round; at
most one acts. On the responder nothing else happens. -/
def Obligations.TickEvaluatesAbortLingerRound : Prop :=
  ∀ s : State,
    let n := (s.now + 1) % 2 ^ s.params.nowW
    let u : State := { s with now := n }
    let aborts : Prop :=
      (s.c.state = .synSent ∨ s.c.state = .finSent ∨
        (s.c.state = .established ∧ s.params.abortInEstablished = true)) ∧
      abortTicks s.params ≤ elapsed s.params n s.c.lastActivity
    (s.role = .responder → eventTick s = u) ∧
    (s.role = .initiator →
      (aborts →
        eventTick s =
          { u with
            c :=
              { s.c with
                state := .closed
                result := if s.c.state = .finSent then .errTeardownNotAcked else .errPeerUnresponsive }
            p := { s.p with valid := false } }) ∧
      (s.c.state = .linger →
        (lingerTicks s.params ≤ elapsed s.params n s.c.lingerStart →
          eventTick s =
            { u with c := { s.c with state := .closed, result := .ok }, p := { s.p with valid := false } }) ∧
        (elapsed s.params n s.c.lingerStart < lingerTicks s.params → eventTick s = u)) ∧
      (¬ aborts → s.c.state.sending = true → s.p.valid = true →
        (roundTicks s.params ≤ elapsed s.params n s.p.sendTime →
          eventTick s = sendPending { u with p := { s.p with sendTime := n } }) ∧
        (elapsed s.params n s.p.sendTime < roundTicks s.params → eventTick s = u)) ∧
      (s.c.state = .idle ∨ s.c.state = .closed → eventTick s = u))

/-- R184: a retransmission is byte-identical to what it repeats: sending the outstanding packet hands exactly its
encoding to `Tx`, and leaves the same packet outstanding. -/
def Obligations.RetransmissionIsIdentical : Prop :=
  ∀ (s : State) (k : Packet), s.params.Wf → pendingPacket s = some k → txOutcome s = .ok →
    (issuedOps s (resendPending s)).filter PortOp.isTx = [.tx (packetBytes k) s.c.peerAddr] ∧
    pendingPacket (resendPending s) = some k ∧
    (resendPending s).p = { s.p with sendTime := s.now } ∧ (resendPending s).c = s.c

/-- R169: with nothing received after the SYN and every `Tx` succeeding, the SYN is sent again every 500 ticks; after
fewer than 10000 ticks the initiator is still in SYN_SENT with one retransmission for each 500, and at tick 10000 it is
CLOSED with `ERR_PEER_UNRESPONSIVE` after nineteen. -/
def Obligations.UnansweredSynIsResentThenAborts : Prop :=
  ∀ (s : State) (n : Nat),
    s.role = .initiator → s.params = Params.default → s.c.state = .synSent → s.p.valid = true →
    s.p.sendTime = s.now → s.c.lastActivity = s.now → s.now + 10000 < 2 ^ 64 →
    s.io.txResults = { front := [], rest := .ok } →
    let syn : PortOp :=
      .tx (packetBytes { seq := s.p.seq, ack := s.p.ack, connId := 0, flags := 2, payload := [] }) s.c.peerAddr
    (n < 10000 →
      (ticksOnly n s).c = s.c ∧ (ticksOnly n s).now = s.now + n ∧
      (ticksOnly n s).io.trace = s.io.trace ++ List.replicate (n / 500) syn) ∧
    (ticksOnly 10000 s).c = { s.c with state := .closed, result := .errPeerUnresponsive } ∧
    (ticksOnly 10000 s).io.trace = s.io.trace ++ List.replicate 19 syn

/-! ### Events, registers, reset -/

/-- A step runs the decoded instruction (R182, R231; the environment's turn that comes first is the model's form of R9,
log 6): when the arbiter hands over a datagram that the engine does not
discard and whose delivered bytes decode to `i`, the step is `exec i` at the state with `RXP` loaded, the request
cleared and, for an oversize datagram, `RX_TRUNC` set. -/
def Obligations.StepRunsDecodedInstruction : Prop :=
  ∀ (s : State) (d : Datagram) (i : Instr),
    arbitrate (takeTurn s).io = some (.rx d) → discardsRx (takeTurn s) = false →
    decode (takeTurn s).params (d.bytes.take ((takeTurn s).params.hdrLen + (takeTurn s).params.maxPayload)) = .ok i →
    let u := takeTurn s
    i.Wf u.params.maxPayload ∧
    step s =
      exec i
        { u with
          sticky :=
            if u.params.hdrLen + u.params.maxPayload < d.bytes.length then stickyWith .rxTrunc u.sticky else u.sticky
          rxp := packetRegOf u.params (instrPacket u.params i) (d.peer % 2 ^ u.params.peerAddrW)
          io := { u.io with rx := u.io.rx.tail } }

/-- R202, R315, R150, R282: a datagram that the arbiter hands over after the environment's turn (the model's form of R9,
log 6) and that is not executed: discarded undecoded in IDLE and CLOSED, dropped with `MALFORMED` when shorter than
`HDR_LEN`, dropped with `RSVD_FLAGS` when its flags are reserved (on the initiator it has refreshed `last_activity`). An
oversize one sets `RX_TRUNC` in each case. -/
def Obligations.StepDropsWhatIsNotExecuted : Prop :=
  ∀ (s : State) (d : Datagram), arbitrate (takeTurn s).io = some (.rx d) →
    let u := takeTurn s
    let v : State :=
      { u with
        sticky :=
          if u.params.hdrLen + u.params.maxPayload < d.bytes.length then stickyWith .rxTrunc u.sticky else u.sticky
        io := { u.io with rx := u.io.rx.tail } }
    (u.role = .initiator → u.c.state = .idle ∨ u.c.state = .closed → step s = .next v) ∧
    (u.role = .responder ∨ u.c.state.active = true →
      (d.bytes.length < u.params.hdrLen → step s = .next { v with sticky := stickyWith .malformed v.sticky }) ∧
      (∀ k, decodePacket u.params (d.bytes.take (u.params.hdrLen + u.params.maxPayload)) = some k →
        kindOf u.params k.flags = .rsvd →
        step s =
          .next
            { v with
              sticky := stickyWith .rsvdFlags v.sticky
              rxp := packetRegOf u.params k (d.peer % 2 ^ u.params.peerAddrW)
              c := if u.role = .initiator then { u.c with lastActivity := u.now } else u.c }))

/-- R322: of the requests pending after the environment's turn (the model's form of R9, log 6) the step serves `E_RESET`,
then `E_RXERR`, then `E_RX`, then `E_START`, then `E_TICK`; each served request is cleared, a receive failure that a
reset overtakes is not kept (R321), and with nothing pending the state stays (log 17). The state a reset leaves is given
whole: that `RXP` and `TXP` are then zero is the model's choice (log 2), and so is that the requests, the feeds, the
source, the script and the trace at the ports survive the reset (log 7). -/
def Obligations.StepServesByPriority : Prop :=
  ∀ s : State,
    let u := takeTurn s
    (u.io.resetReq = true →
      step s = .next (State.resetWith u.io.strap { u.io with resetReq := false, rxErr := false })) ∧
    (u.io.resetReq = false →
      (u.io.rxErr = true →
        step s = .next (eventRxErr { u with io := { u.io with rxErr := false } })) ∧
      (u.io.rxErr = false →
        (∀ d rest, u.io.rx = d :: rest → arbitrate u.io = some (.rx d)) ∧
        (u.io.rx = [] →
          (u.io.start ≠ 0 →
            step s = .next (eventStart { u with io := { u.io with start := u.io.start - 1 } })) ∧
          (u.io.start = 0 →
            (u.io.ticks ≠ 0 →
              step s = .next (eventTick { u with io := { u.io with ticks := u.io.ticks - 1 } })) ∧
            (u.io.ticks = 0 → step s = .next u)))))

/-- R281, R293, R321, R54: the environment's turn (the model's form of R9, log 6) raises requests, and those that R321
pends are never merged or lost: every tick pulse and start is counted, every datagram is queued in receipt order. A
reset and a receive failure stand at the port for the arbiter to see. Of the block itself the turn changes nothing but
the two fields of `C` that the host may write, and these in IDLE only (R53). -/
def Obligations.TurnHoldsEveryRequest : Prop :=
  ∀ (s : State) (acts : List PortAct) (rest : List (List PortAct)), s.io.script = acts :: rest →
    let t := takeTurn s
    t.io.script = rest ∧
    t.io.ticks = s.io.ticks + acts.count .tick ∧ (t.io.rxErr = true ↔ s.io.rxErr = true ∨ PortAct.rxErr ∈ acts) ∧
    t.io.rx = s.io.rx ++ acts.filterMap PortAct.datagram ∧
    t.io.start = s.io.start + acts.countP PortAct.isStart ∧
    (t.io.resetReq = true ↔ s.io.resetReq = true ∨ PortAct.reset ∈ acts) ∧
    t.straps = s.straps ∧ t.now = s.now ∧ t.sticky = s.sticky ∧ t.p = s.p ∧ t.slots = s.slots ∧ t.rxp = s.rxp ∧
    t.txp = s.txp ∧ t.io.trace = s.io.trace ∧ t.io.draws = s.io.draws ∧ t.io.txResults = s.io.txResults ∧
    t.c = { s.c with srcLen := t.c.srcLen, peerAddr := t.c.peerAddr } ∧ (s.c.state ≠ .idle → t.c = s.c)

/-- R58, R350: what `E_RESET` leaves: every piece of state at the value of the table of R58, `ROLE` and the parameters
from the pins, nothing sent and no sink operation, whatever the state was. -/
def Obligations.ResetLeavesTableOfResetValues : Prop :=
  ∀ s : State,
    let t := resetMachine s
    t.straps = s.io.strap ∧ t.now = 0 ∧ t.sticky = 0 ∧
    t.c.state = .idle ∧ t.c.result = .ok ∧ t.c.connId = 0 ∧ t.c.localSeq = 0 ∧ t.c.peerAckExpected = 0 ∧
    t.c.peerAddr = 0 ∧ t.c.srcLen = 0 ∧ t.c.lastActivity = 0 ∧ t.c.lingerStart = 0 ∧
    t.p.valid = false ∧ t.p.seq = 0 ∧ t.p.ack = 0 ∧ t.p.sendTime = 0 ∧ t.p.sourceOffset = 0 ∧
    t.slots.length = s.io.strap.params.nSlots ∧
    (∀ x ∈ t.slots,
      x.inUse = false ∧ x.finObserved = false ∧ x.sinkOpen = false ∧ x.connId = 0 ∧ x.seq = 0 ∧ x.ack = 0 ∧
        x.peerAddr = 0 ∧ x.lastActivity = 0) ∧
    issuedOps s t = []

/-- R53, R54, R56, R367: a host write. `CTRL` bit 0 raises one `E_START`; `SRC_LEN`, `PEER_LO` and `PEER_HI` take effect
in IDLE only, and each read register then gives the value written; no other register can be written. A write of an
address register replaces its bits of `C.peer_addr` and keeps those below `PEER_ADDR_W` (log 5). No role is asked for: that
a responder, which is always in IDLE, takes these writes is the model's choice (log 11). -/
def Obligations.HostWritesActOnlyWhereAllowed : Prop :=
  ∀ (s : State) (number : Nat) (v : Word32),
    let a := s.c.peerAddr
    (v.getLsbD 0 = true → hostWrite 0 v s = { s with io := { s.io with start := s.io.start + 1 } }) ∧
    (v.getLsbD 0 = false → hostWrite 0 v s = s) ∧
    (s.c.state ≠ .idle → number ≠ 0 → hostWrite number v s = s) ∧
    (number ≠ 0 → number ≠ 4 → number ≠ 5 → number ≠ 6 → hostWrite number v s = s) ∧
    (s.c.state = .idle →
      hostWrite 4 v s = { s with c := { s.c with srcLen := v } } ∧ hostRead (hostWrite 4 v s) 4 = v ∧
      hostWrite 5 v s =
        { s with
          c := { s.c with peerAddr := (a / 2 ^ 32 * 2 ^ 32 + v.toNat) % 2 ^ s.params.peerAddrW } } ∧
      hostWrite 6 v s =
        { s with
          c :=
            { s.c with
              peerAddr :=
                (a / 2 ^ 48 * 2 ^ 48 + v.toNat % 2 ^ 16 * 2 ^ 32 + a % 2 ^ 32) % 2 ^ s.params.peerAddrW } } ∧
      (32 ≤ s.params.peerAddrW →
        hostRead (hostWrite 5 v s) 5 = v ∧ hostRead (hostWrite 6 v s) 5 = hostRead s 5) ∧
      (48 ≤ s.params.peerAddrW →
        hostRead (hostWrite 5 v s) 6 = hostRead s 6 ∧
        hostRead (hostWrite 6 v s) 6 = (v.setWidth 16).setWidth 32))

/-- R53: the read side of the register map, register by register, with the bit positions of `CFG`, `STATUS` and
`SLOT_FLAGS`. -/
def Obligations.HostReadsRegisterMap : Prop :=
  ∀ s : State,
    hostRead s 0x00 = 0 ∧
    hostRead s 0x02 =
      BitVec.ofNat 32
        (s.c.state.code.toNat + 2 ^ 4 * s.c.result.code.toNat +
          2 ^ 8 * (if s.c.state = .closed then 1 else 0) + 2 ^ 9 * (if s.p.valid then 1 else 0)) ∧
    (s.params.nSlots < 2 ^ 16 →
      hostRead s 0x01 =
        BitVec.ofNat 32 ((if s.role = .responder then 1 else 0) + 2 ^ 16 * s.params.nSlots)) ∧
    hostRead s 0x03 = s.sticky ∧ hostRead s 0x04 = s.c.srcLen ∧
    hostRead s 0x05 = BitVec.ofNat 32 s.c.peerAddr ∧
    hostRead s 0x06 = BitVec.ofNat 32 (s.c.peerAddr / 2 ^ 32 % 2 ^ 16) ∧
    (hostRead s 0x07).toNat = s.c.connId.toNat ∧ hostRead s 0x08 = s.c.localSeq ∧
    hostRead s 0x09 = s.c.peerAckExpected ∧ hostRead s 0x0A = s.p.sourceOffset ∧
    hostRead s 0x0B = BitVec.ofNat 32 s.now ∧ hostRead s 0x0C = BitVec.ofNat 32 (s.now / 2 ^ 32) ∧
    (∀ number, 0x0C < number → number < 0x100 → hostRead s number = 0) ∧
    (∀ i, s.params.nSlots ≤ i → ∀ r < 8, hostRead s (0x100 + 8 * i + r) = 0) ∧
    ∀ i < s.params.nSlots,
      hostRead s (0x100 + 8 * i) =
        BitVec.ofNat 32
          ((if (s.slot i).inUse then 1 else 0) + 2 * (if (s.slot i).finObserved then 1 else 0) +
            4 * (if (s.slot i).sinkOpen then 1 else 0) + 2 ^ 16 * (s.slot i).connId.toNat) ∧
      hostRead s (0x100 + 8 * i + 1) = (s.slot i).seq ∧ hostRead s (0x100 + 8 * i + 2) = (s.slot i).ack ∧
      hostRead s (0x100 + 8 * i + 3) = BitVec.ofNat 32 (s.slot i).peerAddr ∧
      hostRead s (0x100 + 8 * i + 4) = BitVec.ofNat 32 ((s.slot i).peerAddr / 2 ^ 32 % 2 ^ 16) ∧
      hostRead s (0x100 + 8 * i + 5) = BitVec.ofNat 32 (s.slot i).lastActivity ∧
      hostRead s (0x100 + 8 * i + 6) = BitVec.ofNat 32 ((s.slot i).lastActivity / 2 ^ 32) ∧
      hostRead s (0x100 + 8 * i + 7) = 0

/-! ### Rules about the whole machine -/

/-- R10: no state makes the machine halt: every step gives a next state. -/
def Obligations.EveryStepHasNextState : Prop :=
  ∀ s : State, ∃ t, step s = .next t

/-- R203: in CLOSED no event but `E_RESET` changes `C` or `P`, and nothing is sent or read. -/
def Obligations.ClosedIsTerminal : Prop :=
  ∀ s t : State, s.role = .initiator → s.c.state = .closed → step s = .next t →
    arbitrate (takeTurn s).io ≠ some .reset →
    t.c = s.c ∧ t.p = s.p ∧ t.slots = s.slots ∧ t.io.trace = s.io.trace

/-- R52, R352: the strap and the parameters sampled at the last reset stay until the next one, and the unselected engine
takes part in no event: on the initiator no slot changes; on the responder `P` does not change, nor any field of `C`
but the two the host writes (log 11). -/
def Obligations.UnselectedEngineIsInert : Prop :=
  ∀ s t : State, step s = .next t → arbitrate (takeTurn s).io ≠ some .reset →
    t.straps = s.straps ∧
    (s.role = .initiator → t.slots = s.slots) ∧
    (s.role = .responder →
      t.p = s.p ∧ t.c = { s.c with srcLen := t.c.srcLen, peerAddr := t.c.peerAddr } ∧
        (s.c.state ≠ .idle → t.c = s.c))

/-- R55: a sticky bit once set stays set until `E_RESET`. -/
def Obligations.StickyBitsStayUntilReset : Prop :=
  ∀ (s t : State) (b : StickyBit), step s = .next t → arbitrate (takeTurn s).io ≠ some .reset →
    s.stickyBit b = true → t.stickyBit b = true

/-- R43, R81, R253: the handling of a packet never reads the stored peer address of a slot: two states that differ in
nothing else behave alike, for every packet. (The host can read the address: `Obligations.HostReadsRegisterMap`.) -/
def Obligations.StoredPeerAddressIsNeverRead : Prop :=
  ∀ (i : Instr) (s s' t t' : State), hideSlotPeers s = hideSlotPeers s' →
    exec i s = .next t → exec i s' = .next t' → hideSlotPeers t = hideSlotPeers t'

/-- The reset state (with the model's choice of role and parameters, log 1) meets every invariant of the model. -/
def Obligations.ResetMeetsInvariants : Prop :=
  EnvWf State.reset ∧ InitiatorInv State.reset ∧ TableInv State.reset ∧ RangeInv State.reset ∧
    RoleInv State.reset ∧ Memory.wf State.reset.io.src = true

/-- R34, R113: every step keeps the invariants of the initiator state, with `P.ack` 0 in SYN_SENT and FIN_SENT and
`C.peer_ack_expected` in ESTABLISHED (and well-formed parameters stay well formed; the
constraints R6 does not give are the model's, log 19). -/
def Obligations.StepKeepsInitiatorInvariant : Prop :=
  ∀ s t : State, EnvWf s → InitiatorInv s → step s = .next t → EnvWf t ∧ InitiatorInv t

/-- R49: every step keeps the invariants of the connection table. -/
def Obligations.StepKeepsTableInvariant : Prop :=
  ∀ s t : State, EnvWf s → TableInv s → step s = .next t → TableInv t

/-- Every step keeps the counters, time stamps and addresses within their widths, the reserved bits of `STICKY` at 0
(R55), the unselected engine at rest, and the source bytes in canonical form. -/
def Obligations.StepKeepsRangesRolesAndMemoryForm : Prop :=
  ∀ s t : State, EnvWf s → step s = .next t →
    (RangeInv s → RangeInv t) ∧ (RoleInv s → RoleInv t) ∧
    (Memory.wf s.io.src = true → Memory.wf t.io.src = true)

/-- R113: from every state that meets the invariants, every datagram a step transmits is one that a row of the sending
role's part of the table of R113 allows: `HDR_LEN` to `MAX_DGRAM` bytes, a kind of that role, `seq` and `ack` below
`MAX_SEQ`, `ack` 0 and id 0 on a SYN, `ack` 0 on the initiator's FIN, the id of a slot on the responder's packets, a
payload on DATA and on nothing else; and every source read is one R287 allows. The values of the fields are in
`Obligations.TransmittedFieldsFollowTable`. -/
def Obligations.OnlyLegalDatagramsAndReads : Prop :=
  ∀ s t : State, EnvWf s → InitiatorInv s → TableInv s → step s = .next t →
    t.io.trace = s.io.trace ++ issuedOps s t ∧
    legalTransmissions s.role s.params (issuedOps s t) = true ∧
    legalReads s.params t.c.srcLen.toNat (issuedOps s t) = true

/-- R289 to R291, R246: from every state whose table meets its invariants, a step other than a reset uses each sink in
order: opened when closed, written (never with nothing) and flushed only while open, closed exactly when open; and the
table's open bits say which sinks are open. -/
def Obligations.SinksAreUsedInOrder : Prop :=
  ∀ (s t : State) (id : Word16), EnvWf s → TableInv s → step s = .next t →
    arbitrate (takeTurn s).io ≠ some .reset →
    sinkUseLegal id (tableSinkOpen s id) (issuedOps s t) = true ∧
    tableSinkOpen t id = sinkOpenAfter id (tableSinkOpen s id) (issuedOps s t)

/-- The source bytes as a memory: a byte written is read back, every other byte is as before, and the canonical form is
kept (the model's own representation of R70 (2); log 3). -/
def Obligations.SourceWriteThenRead : Prop :=
  ∀ (m : Memory) (a : Nat) (b : Byte), Memory.wf m = true → a < 2 ^ 32 →
    Memory.wf (Memory.write a b m) = true ∧ Memory.read (Memory.write a b m) a = b ∧
    ∀ a', a' ≠ a → Memory.read (Memory.write a b m) a' = Memory.read m a'

/-- R168, R204: a tick whose round deadline acts and whose `Tx` fails: the outstanding packet was handed over once, and the
connection is CLOSED with `ERR_TRANSPORT`; `P.send_time` has been written before. The whole next state is given. -/
def Obligations.FailedRetransmissionAtTickCloses : Prop :=
  ∀ (s : State) (k : Packet), s.role = .initiator → s.params.Wf → txOutcome s = .fail →
    let n := (s.now + 1) % 2 ^ s.params.nowW
    pendingPacket s = some k → s.p.valid = true → roundTicks s.params ≤ elapsed s.params n s.p.sendTime →
    ((s.c.state = .established ∧ s.params.abortInEstablished = false) ∨
      elapsed s.params n s.c.lastActivity < abortTicks s.params) →
    eventTick s =
      { s with
        now := n
        c := { s.c with state := .closed, result := .errTransport }
        p := { s.p with valid := false, sendTime := n }
        txp := packetRegOf s.params k s.c.peerAddr
        io :=
          { s.io with
            trace :=
              s.io.trace ++
                ((if s.c.state = .established then [.srcRead s.p.sourceOffset.toNat (chunkLen s)] else []) ++
                  [.tx (packetBytes k) s.c.peerAddr])
            txResults := s.io.txResults.tail } }

/-- R321: what is pended after the environment's turn (log 6) and what is not: a datagram, a start and a tick pulse stay
until they are served, each is cleared by being served and by nothing else, and after every step no reset request and no
receive failure stands (that a reset leaves the three is log 7). -/
def Obligations.StepPendsOnlyDatagramsStartsAndTicks : Prop :=
  ∀ s t : State, step s = .next t →
    let u := takeTurn s
    let e := arbitrate u.io
    t.io.resetReq = false ∧ t.io.rxErr = false ∧
    (∀ d, e = some (.rx d) → t.io.rx = u.io.rx.tail) ∧ ((∀ d, e ≠ some (.rx d)) → t.io.rx = u.io.rx) ∧
    t.io.start = (if e = some .start then u.io.start - 1 else u.io.start) ∧
    t.io.ticks = (if e = some .tick then u.io.ticks - 1 else u.io.ticks) ∧
    t.io.script = u.io.script ∧ t.io.strap = u.io.strap ∧ t.io.src = u.io.src

/-- R113: from every state that meets the invariants, every datagram a step transmits is the encoding of a packet with the
field values of a row of R113, sent to the peer of `C` by an initiator and to the sender of the datagram being answered
by a responder (R253). -/
def Obligations.TransmittedFieldsFollowTable : Prop :=
  ∀ (s t : State) (d : List Byte) (dest : Nat), EnvWf s → InitiatorInv s → TableInv s → step s = .next t →
    .tx d dest ∈ issuedOps s t →
    ∃ k, d = packetBytes k ∧ decodePacket t.params d = some k ∧
      (t.role = .initiator → dest = t.c.peerAddr ∧ InitiatorTransmits t k) ∧
      (t.role = .responder → dest = t.rxp.peer ∧ ResponderTransmits t k)
end

