-- ==== Sys2Proof/Laws/Codec.lean ====
section
/-! SUPPORT. The byte-order helpers and the codec: splitting and joining a field are inverse to each other, a joined field
is the big-endian number of its bytes, `DECODE` gives a packet exactly for `HDR_LEN` bytes or more, and the six flags
values are pairwise different (spec R7, R103, R106, R133). -/

namespace Sys2Proof

/-- Joining the two bytes of a field gives the field. -/
@[simp] theorem joinBe16_split (v : Word16) : joinBe16 (v.extractLsb' 8 8) (v.extractLsb' 0 8) = v := by
  apply BitVec.eq_of_getLsbD_eq
  intro i hi
  simp only [joinBe16, BitVec.getLsbD_append, BitVec.getLsbD_extractLsb']
  by_cases h : i < 8
  · simp [h]
  · have e : 8 + (i - 8) = i := by omega
    have h2 : i - 8 < 8 := by omega
    simp [h, h2, e]

/-- Joining the four bytes of a field gives the field. -/
@[simp] theorem joinBe32_split (v : Word32) :
    joinBe32 (v.extractLsb' 24 8) (v.extractLsb' 16 8) (v.extractLsb' 8 8) (v.extractLsb' 0 8) = v := by
  apply BitVec.eq_of_getLsbD_eq
  intro i hi
  simp only [joinBe32, BitVec.getLsbD_append, BitVec.getLsbD_extractLsb']
  by_cases h0 : i < 8
  · simp [h0]
  · by_cases h1 : i - 8 < 8
    · have e : 8 + (i - 8) = i := by omega
      simp [h0, h1, e]
    · by_cases h2 : i - 8 - 8 < 8
      · have e : 16 + (i - 8 - 8) = i := by omega
        simp [h0, h1, h2, e]
      · have e : 24 + (i - 8 - 8 - 8) = i := by omega
        have h3 : i - 8 - 8 - 8 < 8 := by omega
        simp [h0, h1, h2, h3, e]

/-- Splitting a joined 16-bit field gives its bytes. -/
@[simp] theorem splitBe16_join (x y : Byte) : splitBe16 (joinBe16 x y) = [x, y] := by
  simp only [splitBe16, joinBe16, List.cons.injEq, and_true]
  refine ⟨?_, ?_⟩
  · apply BitVec.eq_of_getLsbD_eq
    intro i hi
    simp only [BitVec.getLsbD_extractLsb', BitVec.getLsbD_append]
    simp [hi]
  · apply BitVec.eq_of_getLsbD_eq
    intro i hi
    simp only [BitVec.getLsbD_extractLsb', BitVec.getLsbD_append]
    simp [hi]

/-- Splitting a joined 32-bit field gives its bytes. -/
@[simp] theorem splitBe32_join (w x y z : Byte) : splitBe32 (joinBe32 w x y z) = [w, x, y, z] := by
  simp only [splitBe32, joinBe32, List.cons.injEq, and_true]
  refine ⟨?_, ?_, ?_, ?_⟩ <;>
  · apply BitVec.eq_of_getLsbD_eq
    intro i hi
    simp only [BitVec.getLsbD_extractLsb', BitVec.getLsbD_append]
    have h0 : ¬ 24 + i < 8 := by omega
    have h1 : ¬ 24 + i - 8 < 8 := by omega
    have h2 : ¬ 24 + i - 8 - 8 < 8 := by omega
    have h3 : 24 + i - 8 - 8 - 8 = i := by omega
    have h4 : ¬ 16 + i < 8 := by omega
    have h5 : ¬ 16 + i - 8 < 8 := by omega
    have h6 : 16 + i - 8 - 8 = i := by omega
    simp [hi, h0, h1, h2, h3, h4, h5, h6]

/-- `BE16` as a number (R7). -/
theorem joinBe16_toNat (x y : Byte) : (joinBe16 x y).toNat = 256 * x.toNat + y.toNat := by
  simp only [joinBe16, BitVec.toNat_append]
  rw [← Nat.shiftLeft_add_eq_or_of_lt y.isLt, Nat.shiftLeft_eq]; omega

/-- `BE32` as a number (R7). -/
theorem joinBe32_toNat (w x y z : Byte) :
    (joinBe32 w x y z).toNat = 2 ^ 24 * w.toNat + 2 ^ 16 * x.toNat + 2 ^ 8 * y.toNat + z.toNat := by
  simp only [joinBe32, BitVec.toNat_append]
  rw [← Nat.shiftLeft_add_eq_or_of_lt z.isLt, ← Nat.shiftLeft_add_eq_or_of_lt y.isLt,
    ← Nat.shiftLeft_add_eq_or_of_lt x.isLt]
  simp only [Nat.shiftLeft_eq]; omega

/-- Well-formed parameters have the header length of R101. -/
theorem Params.Wf.hdrLen_eq {q : Params} (h : q.Wf) : q.hdrLen = 12 := by
  obtain ⟨-, -, -, -, -, -, -, -, -, -, -, h, -⟩ := h
  exact h

/-- The packet of an instruction carries the instruction's payload. -/
@[simp] theorem instrPacket_payload (q : Params) (i : Instr) : (instrPacket q i).payload = i.payload := by
  cases i <;> rfl

/-- The header fields are read when the bytes reach past them (R77). -/
theorem readHeader_eq_none_iff (b d : List Byte) : readHeader b d = none ↔ d.length < 12 := by
  constructor
  · intro h
    match d with
    | [] | [_] | [_, _] | [_, _, _] | [_, _, _, _] | [_, _, _, _, _] | [_, _, _, _, _, _] | [_, _, _, _, _, _, _]
    | [_, _, _, _, _, _, _, _] | [_, _, _, _, _, _, _, _, _] | [_, _, _, _, _, _, _, _, _, _]
    | [_, _, _, _, _, _, _, _, _, _, _] => simp
    | _ :: _ :: _ :: _ :: _ :: _ :: _ :: _ :: _ :: _ :: _ :: _ :: _ => simp [readHeader] at h
  · intro h
    unfold readHeader
    split
    · simp at h; omega
    · rfl

/-- The length of a packet's datagram (R131). -/
@[simp] theorem packetBytes_length (k : Packet) : (packetBytes k).length = 12 + k.payload.length := by
  simp [packetBytes, splitBe32, splitBe16]; omega

/-- `DECODE` reads back the bytes of a packet (R131, R133; the first half of R135). -/
theorem decodePacket_packetBytes {q : Params} (hq : q.hdrLen = 12) (k : Packet) :
    decodePacket q (packetBytes k) = some k := by
  have h : ¬ (packetBytes k).length < q.hdrLen := by rw [packetBytes_length]; omega
  rw [decodePacket, if_neg h, hq]
  simp [packetBytes, splitBe32, splitBe16, readHeader]

/-- A datagram that decodes is its header bytes and the payload, which are the bytes of the packet (R133;
the second half of R135). -/
theorem decodePacket_eq_some {q : Params} (hq : q.hdrLen = 12) {d : List Byte} {k : Packet}
    (h : decodePacket q d = some k) : packetBytes k = d := by
  unfold decodePacket at h
  split at h
  · cases h
  · rw [hq] at h
    unfold readHeader at h
    split at h
    · cases h
      simp [packetBytes]
    · cases h

/-- `DECODE` fails exactly below `HDR_LEN` bytes (R110, R133, R315). -/
theorem decodePacket_eq_none_iff {q : Params} (hq : q.hdrLen = 12) (d : List Byte) :
    decodePacket q d = none ↔ d.length < q.hdrLen := by
  unfold decodePacket
  split
  · rename_i h; simp [h]
  · rename_i h
    rw [readHeader_eq_none_iff]
    omega

/-- `ENCODE` gives a datagram exactly when the payload fits (R131, R132). -/
theorem encodePacket_eq_some_iff (m : Nat) (k : Packet) (d : List Byte) :
    encodePacket m k = some d ↔ k.payload.length ≤ m ∧ packetBytes k = d := by
  unfold encodePacket
  split <;> simp_all

/-- A packet without payload always encodes. -/
@[simp] theorem encodePacket_nil (m : Nat) (k : Packet) (h : k.payload = []) :
    encodePacket m k = some (packetBytes k) := by
  simp [encodePacket, h]

/-! ### The flags values of the six kinds -/

/-- A flag bit value is not zero. -/
theorem FlagBit.ne_zero {w : Word16} (h : FlagBit w) : w ≠ 0 := by
  obtain ⟨i, rfl⟩ := h
  revert i; decide

/-- Two flag bit values that differ share no bit, so neither is the other together with a third flag. -/
theorem FlagBit.or_ne {v w : Word16} (hv : FlagBit v) (hw : FlagBit w) (h : v ≠ w) (x : Word16) : w ||| x ≠ v ∧
    x ||| w ≠ v := by
  obtain ⟨i, rfl⟩ := hv
  obtain ⟨j, rfl⟩ := hw
  have hij : (i : Nat) ≠ j := fun e => h (by rw [e])
  have key : ∀ y : Word16, y.getLsbD j = true → y ≠ BitVec.twoPow 16 i := by
    rintro y hy rfl
    exact hij (by simpa using hy : (j : Nat) = i).symm
  constructor <;> apply key <;> simp

/-- Two flags together are another value than one of them with a third flag. -/
theorem FlagBit.or_ne_or {u v w : Word16} (hu : FlagBit u) (hv : FlagBit v) (hw : FlagBit w) (huv : u ≠ v)
    (huw : u ≠ w) : u ||| w ≠ v ||| w := by
  obtain ⟨i, rfl⟩ := hu
  obtain ⟨j, rfl⟩ := hv
  obtain ⟨l, rfl⟩ := hw
  have hij : (j : Nat) ≠ i := fun e => huv (by rw [e])
  have hil : (l : Nat) ≠ i := fun e => huw (by rw [e])
  intro e
  have h : (i : Nat) = j ∨ (i : Nat) = l := by simpa using congrArg (fun y => y.getLsbD i) e
  exact h.elim (fun h => hij h.symm) (fun h => hil h.symm)

/-- The six flags values of well-formed parameters are pairwise different (R102, R106). -/
theorem Params.Wf.flags_distinct {q : Params} (h : q.Wf) :
    [flagsData, flagsFin q, flagsSyn q, flagsAck q, flagsFinAck q, flagsSynAck q].Nodup := by
  obtain ⟨-, -, -, -, -, -, -, -, -, -, -, -, hf, hs, ha, hfs, hfa, hsa⟩ := h
  have f0 := hf.ne_zero
  have s0 := hs.ne_zero
  have a0 := ha.ne_zero
  have e1 := (hf.or_ne ha hfa q.flagFin).2
  have e2 := (hs.or_ne ha hsa q.flagFin).2
  have e3 := (ha.or_ne hf hfa.symm q.flagAck).1
  have e4 := (hf.or_ne ha hfa q.flagSyn).2
  have e5 := (hs.or_ne ha hsa q.flagSyn).2
  have e6 := (ha.or_ne hs hsa.symm q.flagAck).1
  have e7 := hf.or_ne_or hs ha hfs hfa
  have z1 : q.flagFin ||| q.flagAck ≠ 0 := by
    intro e; exact f0 (by simpa using (BitVec.or_eq_zero_iff.mp e).1)
  have z2 : q.flagSyn ||| q.flagAck ≠ 0 := by
    intro e; exact s0 (by simpa using (BitVec.or_eq_zero_iff.mp e).1)
  simp only [List.nodup_cons, List.mem_cons, List.not_mem_nil, or_false, not_or, flagsData, flagsFin, flagsSyn,
    flagsAck, flagsFinAck, flagsSynAck, List.nodup_nil, and_true, not_false_eq_true]
  exact ⟨⟨f0.symm, s0.symm, a0.symm, z1.symm, z2.symm⟩, ⟨hfs, hfa, e1.symm, e4.symm⟩, ⟨hsa, e2.symm, e5.symm⟩,
    ⟨e3.symm, e6.symm⟩, e7⟩

/-- What is classified as an instruction is the packet of that instruction (R106, R107). -/
theorem classifyPacket_eq_some {q : Params} {k : Packet} {i : Instr} (h : classifyPacket q k = some i) :
    instrPacket q i = k := by
  obtain ⟨s, a, c, f, b⟩ := k
  unfold classifyPacket kindOf at h
  by_cases h0 : f = flagsData
  · subst h0; simp only [if_true] at h; cases h; rfl
  by_cases h1 : f = flagsFin q
  · simp only [h1, if_true] at h; subst h1; simp only [if_neg h0] at h; cases h; rfl
  by_cases h2 : f = flagsSyn q
  · subst h2; simp only [if_true, if_neg h0, if_neg h1] at h; cases h; rfl
  by_cases h4 : f = flagsAck q
  · subst h4; simp only [if_true, if_neg h0, if_neg h1, if_neg h2] at h; cases h; rfl
  by_cases h5 : f = flagsFinAck q
  · subst h5; simp only [if_true, if_neg h0, if_neg h1, if_neg h2, if_neg h4] at h; cases h; rfl
  by_cases h6 : f = flagsSynAck q
  · subst h6; simp only [if_true, if_neg h0, if_neg h1, if_neg h2, if_neg h4, if_neg h5] at h; cases h; rfl
  simp only [if_neg h0, if_neg h1, if_neg h2, if_neg h4, if_neg h5, if_neg h6] at h
  cases h

/-- The packet of an instruction is classified as that instruction (R106, R107). -/
theorem classifyPacket_instrPacket {q : Params} (hq : q.Wf) (i : Instr) :
    classifyPacket q (instrPacket q i) = some i := by
  have h := hq.flags_distinct
  simp only [List.nodup_cons, List.mem_cons, List.not_mem_nil, or_false, not_or] at h
  obtain ⟨⟨a1, a2, a3, a4, a5⟩, ⟨b1, b2, b3, b4⟩, ⟨c1, c2, c3⟩, ⟨d1, d2⟩, e1, -⟩ := h
  cases i <;>
    simp only [classifyPacket, kindOf, instrPacket, if_true, if_neg (Ne.symm a1), if_neg (Ne.symm a2),
      if_neg (Ne.symm a3), if_neg (Ne.symm a4), if_neg (Ne.symm a5), if_neg (Ne.symm b1), if_neg (Ne.symm b2),
      if_neg (Ne.symm b3), if_neg (Ne.symm b4), if_neg (Ne.symm c1), if_neg (Ne.symm c2), if_neg (Ne.symm c3),
      if_neg (Ne.symm d1), if_neg (Ne.symm d2), if_neg (Ne.symm e1)]

end Sys2Proof
end

