-- ==== Sys2Proof/Laws/Memory.lean ====
section
/-! SUPPORT. The source byte space: a write keeps the canonical form, is read back, and leaves every other byte. -/

namespace Sys2Proof.Machine

/-- A canonical list above a higher bound is one above a lower bound. -/
theorem Memory.wfAbove_mono {lo lo' : Nat} {m : Memory} (h : lo ≤ lo') (w : Memory.wfAbove lo' m = true) :
    Memory.wfAbove lo m = true := by
  cases m with
  | nil => rfl
  | cons cell rest =>
    simp only [Memory.wfAbove, Bool.and_eq_true, decide_eq_true_eq] at w ⊢
    exact ⟨⟨⟨by omega, w.1.1.2⟩, w.1.2⟩, w.2⟩

/-- Below the bound of a canonical list nothing is listed. -/
theorem Memory.read_below {lo a : Nat} {m : Memory} (w : Memory.wfAbove lo m = true) (h : a < lo) :
    Memory.read m a = Config.srcFill := by
  induction m generalizing lo with
  | nil => rfl
  | cons cell rest ih =>
    simp only [Memory.wfAbove, Bool.and_eq_true, decide_eq_true_eq] at w
    have : cell.1 ≠ a := by omega
    simp only [Memory.read, this, if_false]
    exact ih w.2 (by omega)

/-- A write at or above the bound keeps the canonical form. -/
theorem Memory.write_wfAbove {lo a : Nat} {b : Byte} {m : Memory} (w : Memory.wfAbove lo m = true)
    (hlo : lo ≤ a) (ha : a < 2 ^ 32) : Memory.wfAbove lo (Memory.write a b m) = true := by
  induction m generalizing lo with
  | nil =>
    simp only [Memory.write]
    split
    · rfl
    · rename_i hb; simp [Memory.wfAbove, hlo, hb]; omega
  | cons cell rest ih =>
    simp only [Memory.wfAbove, Bool.and_eq_true, decide_eq_true_eq] at w
    simp only [Memory.write]
    split
    · split
      · simp only [Memory.wfAbove, Bool.and_eq_true, decide_eq_true_eq]
        exact w
      · rename_i h hb
        have : a + 1 ≤ cell.1 := by omega
        have hc := w.1.1.2
        have hf := w.1.2
        simp only [Memory.wfAbove, Bool.and_eq_true, decide_eq_true_eq]
        exact ⟨⟨⟨hlo, ha⟩, by simp [hb]⟩, ⟨⟨this, hc⟩, hf⟩, w.2⟩
    · split
      · rename_i h1 h2
        split
        · exact Memory.wfAbove_mono (by omega) w.2
        · rename_i hb
          simp only [Memory.wfAbove, Bool.and_eq_true, decide_eq_true_eq]
          exact ⟨⟨⟨hlo, ha⟩, by simp [hb]⟩, h2 ▸ w.2⟩
      · simp only [Memory.wfAbove, Bool.and_eq_true, decide_eq_true_eq]
        exact ⟨w.1, ih w.2 (by omega)⟩
/-- A write keeps the canonical form (log 3). -/
theorem Memory.write_wf {a : Nat} {b : Byte} {m : Memory} (w : Memory.wf m = true) (ha : a < 2 ^ 32) :
    Memory.wf (Memory.write a b m) = true := Memory.write_wfAbove w (Nat.zero_le _) ha

/-- The byte written is read back. -/
theorem Memory.read_write_same {lo a : Nat} {b : Byte} {m : Memory} (w : Memory.wfAbove lo m = true) :
    Memory.read (Memory.write a b m) a = b := by
  induction m generalizing lo with
  | nil =>
    simp only [Memory.write]
    split
    · rename_i h; simp [Memory.read, h]
    · simp [Memory.read]
  | cons cell rest ih =>
    simp only [Memory.wfAbove, Bool.and_eq_true, decide_eq_true_eq] at w
    simp only [Memory.write]
    split
    · split
      · rename_i h hb
        have e : cell.1 ≠ a := by omega
        simp only [Memory.read, e, if_false, hb]
        exact Memory.read_below w.2 (by omega)
      · simp [Memory.read]
    · split
      · rename_i h1 h2
        split
        · rename_i hb
          rw [hb]
          exact Memory.read_below w.2 (by omega)
        · simp [Memory.read]
      · rename_i h1 h2
        have e : cell.1 ≠ a := fun h => h2 h.symm
        simp only [Memory.read, e, if_false]
        exact ih w.2

/-- Every other byte reads as before. -/
theorem Memory.read_write_other {a a' : Nat} {b : Byte} (m : Memory) (h : a' ≠ a) :
    Memory.read (Memory.write a b m) a' = Memory.read m a' := by
  have h' : a ≠ a' := Ne.symm h
  induction m with
  | nil =>
    simp only [Memory.write]
    split <;> simp [Memory.read, h']
  | cons cell rest ih =>
    simp only [Memory.write]
    split
    · split
      · rfl
      · simp [Memory.read, h']
    · split
      · rename_i h1 h2
        split <;> simp [Memory.read, ← h2, h']
      · simp only [Memory.read, ih]

/-- `SRC[off .. off+len-1]` has `len` bytes (R287). -/
@[simp] theorem Memory.readBytes_length (m : Memory) (off n : Nat) : (Memory.readBytes m off n).length = n := by
  induction n generalizing off with
  | zero => rfl
  | succ n ih => simp [Memory.readBytes, ih]

end Sys2Proof.Machine
end

