-- ==== Sys2Proof/Laws/State.lean ====
section
/-! SUPPORT. One lemma per field per named update of State, each true by unfolding, so that no proof unfolds a record
update; then the same for the operations that are one update of one field. -/

namespace Sys2Proof.Machine


/-! ### setNow -/

@[simp] theorem State.setNow_straps (s : State) (v : Nat) : (s.setNow v).straps = s.straps := rfl
@[simp] theorem State.setNow_now (s : State) (v : Nat) : (s.setNow v).now = v := rfl
@[simp] theorem State.setNow_sticky (s : State) (v : Nat) : (s.setNow v).sticky = s.sticky := rfl
@[simp] theorem State.setNow_c (s : State) (v : Nat) : (s.setNow v).c = s.c := rfl
@[simp] theorem State.setNow_p (s : State) (v : Nat) : (s.setNow v).p = s.p := rfl
@[simp] theorem State.setNow_slots (s : State) (v : Nat) : (s.setNow v).slots = s.slots := rfl
@[simp] theorem State.setNow_rxp (s : State) (v : Nat) : (s.setNow v).rxp = s.rxp := rfl
@[simp] theorem State.setNow_txp (s : State) (v : Nat) : (s.setNow v).txp = s.txp := rfl
@[simp] theorem State.setNow_io (s : State) (v : Nat) : (s.setNow v).io = s.io := rfl
@[simp] theorem State.setNow_role (s : State) (v : Nat) : (s.setNow v).role = s.role := rfl
@[simp] theorem State.setNow_params (s : State) (v : Nat) : (s.setNow v).params = s.params := rfl
@[simp] theorem State.setNow_slot (s : State) (v : Nat) (i : Nat) : (s.setNow v).slot i = s.slot i := rfl

/-! ### setSticky -/

@[simp] theorem State.setSticky_straps (s : State) (v : Word32) : (s.setSticky v).straps = s.straps := rfl
@[simp] theorem State.setSticky_now (s : State) (v : Word32) : (s.setSticky v).now = s.now := rfl
@[simp] theorem State.setSticky_sticky (s : State) (v : Word32) : (s.setSticky v).sticky = v := rfl
@[simp] theorem State.setSticky_c (s : State) (v : Word32) : (s.setSticky v).c = s.c := rfl
@[simp] theorem State.setSticky_p (s : State) (v : Word32) : (s.setSticky v).p = s.p := rfl
@[simp] theorem State.setSticky_slots (s : State) (v : Word32) : (s.setSticky v).slots = s.slots := rfl
@[simp] theorem State.setSticky_rxp (s : State) (v : Word32) : (s.setSticky v).rxp = s.rxp := rfl
@[simp] theorem State.setSticky_txp (s : State) (v : Word32) : (s.setSticky v).txp = s.txp := rfl
@[simp] theorem State.setSticky_io (s : State) (v : Word32) : (s.setSticky v).io = s.io := rfl
@[simp] theorem State.setSticky_role (s : State) (v : Word32) : (s.setSticky v).role = s.role := rfl
@[simp] theorem State.setSticky_params (s : State) (v : Word32) : (s.setSticky v).params = s.params := rfl
@[simp] theorem State.setSticky_slot (s : State) (v : Word32) (i : Nat) : (s.setSticky v).slot i = s.slot i := rfl

/-! ### setC -/

@[simp] theorem State.setC_straps (s : State) (v : Conn) : (s.setC v).straps = s.straps := rfl
@[simp] theorem State.setC_now (s : State) (v : Conn) : (s.setC v).now = s.now := rfl
@[simp] theorem State.setC_sticky (s : State) (v : Conn) : (s.setC v).sticky = s.sticky := rfl
@[simp] theorem State.setC_c (s : State) (v : Conn) : (s.setC v).c = v := rfl
@[simp] theorem State.setC_p (s : State) (v : Conn) : (s.setC v).p = s.p := rfl
@[simp] theorem State.setC_slots (s : State) (v : Conn) : (s.setC v).slots = s.slots := rfl
@[simp] theorem State.setC_rxp (s : State) (v : Conn) : (s.setC v).rxp = s.rxp := rfl
@[simp] theorem State.setC_txp (s : State) (v : Conn) : (s.setC v).txp = s.txp := rfl
@[simp] theorem State.setC_io (s : State) (v : Conn) : (s.setC v).io = s.io := rfl
@[simp] theorem State.setC_role (s : State) (v : Conn) : (s.setC v).role = s.role := rfl
@[simp] theorem State.setC_params (s : State) (v : Conn) : (s.setC v).params = s.params := rfl
@[simp] theorem State.setC_slot (s : State) (v : Conn) (i : Nat) : (s.setC v).slot i = s.slot i := rfl

/-! ### setP -/

@[simp] theorem State.setP_straps (s : State) (v : PendingSend) : (s.setP v).straps = s.straps := rfl
@[simp] theorem State.setP_now (s : State) (v : PendingSend) : (s.setP v).now = s.now := rfl
@[simp] theorem State.setP_sticky (s : State) (v : PendingSend) : (s.setP v).sticky = s.sticky := rfl
@[simp] theorem State.setP_c (s : State) (v : PendingSend) : (s.setP v).c = s.c := rfl
@[simp] theorem State.setP_p (s : State) (v : PendingSend) : (s.setP v).p = v := rfl
@[simp] theorem State.setP_slots (s : State) (v : PendingSend) : (s.setP v).slots = s.slots := rfl
@[simp] theorem State.setP_rxp (s : State) (v : PendingSend) : (s.setP v).rxp = s.rxp := rfl
@[simp] theorem State.setP_txp (s : State) (v : PendingSend) : (s.setP v).txp = s.txp := rfl
@[simp] theorem State.setP_io (s : State) (v : PendingSend) : (s.setP v).io = s.io := rfl
@[simp] theorem State.setP_role (s : State) (v : PendingSend) : (s.setP v).role = s.role := rfl
@[simp] theorem State.setP_params (s : State) (v : PendingSend) : (s.setP v).params = s.params := rfl
@[simp] theorem State.setP_slot (s : State) (v : PendingSend) (i : Nat) : (s.setP v).slot i = s.slot i := rfl

/-! ### setSlots -/

@[simp] theorem State.setSlots_straps (s : State) (v : List Slot) : (s.setSlots v).straps = s.straps := rfl
@[simp] theorem State.setSlots_now (s : State) (v : List Slot) : (s.setSlots v).now = s.now := rfl
@[simp] theorem State.setSlots_sticky (s : State) (v : List Slot) : (s.setSlots v).sticky = s.sticky := rfl
@[simp] theorem State.setSlots_c (s : State) (v : List Slot) : (s.setSlots v).c = s.c := rfl
@[simp] theorem State.setSlots_p (s : State) (v : List Slot) : (s.setSlots v).p = s.p := rfl
@[simp] theorem State.setSlots_slots (s : State) (v : List Slot) : (s.setSlots v).slots = v := rfl
@[simp] theorem State.setSlots_rxp (s : State) (v : List Slot) : (s.setSlots v).rxp = s.rxp := rfl
@[simp] theorem State.setSlots_txp (s : State) (v : List Slot) : (s.setSlots v).txp = s.txp := rfl
@[simp] theorem State.setSlots_io (s : State) (v : List Slot) : (s.setSlots v).io = s.io := rfl
@[simp] theorem State.setSlots_role (s : State) (v : List Slot) : (s.setSlots v).role = s.role := rfl
@[simp] theorem State.setSlots_params (s : State) (v : List Slot) : (s.setSlots v).params = s.params := rfl

/-! ### setRxp -/

@[simp] theorem State.setRxp_straps (s : State) (v : PacketReg) : (s.setRxp v).straps = s.straps := rfl
@[simp] theorem State.setRxp_now (s : State) (v : PacketReg) : (s.setRxp v).now = s.now := rfl
@[simp] theorem State.setRxp_sticky (s : State) (v : PacketReg) : (s.setRxp v).sticky = s.sticky := rfl
@[simp] theorem State.setRxp_c (s : State) (v : PacketReg) : (s.setRxp v).c = s.c := rfl
@[simp] theorem State.setRxp_p (s : State) (v : PacketReg) : (s.setRxp v).p = s.p := rfl
@[simp] theorem State.setRxp_slots (s : State) (v : PacketReg) : (s.setRxp v).slots = s.slots := rfl
@[simp] theorem State.setRxp_rxp (s : State) (v : PacketReg) : (s.setRxp v).rxp = v := rfl
@[simp] theorem State.setRxp_txp (s : State) (v : PacketReg) : (s.setRxp v).txp = s.txp := rfl
@[simp] theorem State.setRxp_io (s : State) (v : PacketReg) : (s.setRxp v).io = s.io := rfl
@[simp] theorem State.setRxp_role (s : State) (v : PacketReg) : (s.setRxp v).role = s.role := rfl
@[simp] theorem State.setRxp_params (s : State) (v : PacketReg) : (s.setRxp v).params = s.params := rfl
@[simp] theorem State.setRxp_slot (s : State) (v : PacketReg) (i : Nat) : (s.setRxp v).slot i = s.slot i := rfl

/-! ### setTxp -/

@[simp] theorem State.setTxp_straps (s : State) (v : PacketReg) : (s.setTxp v).straps = s.straps := rfl
@[simp] theorem State.setTxp_now (s : State) (v : PacketReg) : (s.setTxp v).now = s.now := rfl
@[simp] theorem State.setTxp_sticky (s : State) (v : PacketReg) : (s.setTxp v).sticky = s.sticky := rfl
@[simp] theorem State.setTxp_c (s : State) (v : PacketReg) : (s.setTxp v).c = s.c := rfl
@[simp] theorem State.setTxp_p (s : State) (v : PacketReg) : (s.setTxp v).p = s.p := rfl
@[simp] theorem State.setTxp_slots (s : State) (v : PacketReg) : (s.setTxp v).slots = s.slots := rfl
@[simp] theorem State.setTxp_rxp (s : State) (v : PacketReg) : (s.setTxp v).rxp = s.rxp := rfl
@[simp] theorem State.setTxp_txp (s : State) (v : PacketReg) : (s.setTxp v).txp = v := rfl
@[simp] theorem State.setTxp_io (s : State) (v : PacketReg) : (s.setTxp v).io = s.io := rfl
@[simp] theorem State.setTxp_role (s : State) (v : PacketReg) : (s.setTxp v).role = s.role := rfl
@[simp] theorem State.setTxp_params (s : State) (v : PacketReg) : (s.setTxp v).params = s.params := rfl
@[simp] theorem State.setTxp_slot (s : State) (v : PacketReg) (i : Nat) : (s.setTxp v).slot i = s.slot i := rfl

/-! ### setIo -/

@[simp] theorem State.setIo_straps (s : State) (v : Ports) : (s.setIo v).straps = s.straps := rfl
@[simp] theorem State.setIo_now (s : State) (v : Ports) : (s.setIo v).now = s.now := rfl
@[simp] theorem State.setIo_sticky (s : State) (v : Ports) : (s.setIo v).sticky = s.sticky := rfl
@[simp] theorem State.setIo_c (s : State) (v : Ports) : (s.setIo v).c = s.c := rfl
@[simp] theorem State.setIo_p (s : State) (v : Ports) : (s.setIo v).p = s.p := rfl
@[simp] theorem State.setIo_slots (s : State) (v : Ports) : (s.setIo v).slots = s.slots := rfl
@[simp] theorem State.setIo_rxp (s : State) (v : Ports) : (s.setIo v).rxp = s.rxp := rfl
@[simp] theorem State.setIo_txp (s : State) (v : Ports) : (s.setIo v).txp = s.txp := rfl
@[simp] theorem State.setIo_io (s : State) (v : Ports) : (s.setIo v).io = v := rfl
@[simp] theorem State.setIo_role (s : State) (v : Ports) : (s.setIo v).role = s.role := rfl
@[simp] theorem State.setIo_params (s : State) (v : Ports) : (s.setIo v).params = s.params := rfl
@[simp] theorem State.setIo_slot (s : State) (v : Ports) (i : Nat) : (s.setIo v).slot i = s.slot i := rfl

/-! ### emit -/

@[simp] theorem emit_straps (o : PortOp) (s : State) : (emit o s).straps = s.straps := rfl
@[simp] theorem emit_now (o : PortOp) (s : State) : (emit o s).now = s.now := rfl
@[simp] theorem emit_sticky (o : PortOp) (s : State) : (emit o s).sticky = s.sticky := rfl
@[simp] theorem emit_c (o : PortOp) (s : State) : (emit o s).c = s.c := rfl
@[simp] theorem emit_p (o : PortOp) (s : State) : (emit o s).p = s.p := rfl
@[simp] theorem emit_slots (o : PortOp) (s : State) : (emit o s).slots = s.slots := rfl
@[simp] theorem emit_rxp (o : PortOp) (s : State) : (emit o s).rxp = s.rxp := rfl
@[simp] theorem emit_txp (o : PortOp) (s : State) : (emit o s).txp = s.txp := rfl
@[simp] theorem emit_io (o : PortOp) (s : State) : (emit o s).io = { s.io with trace := s.io.trace ++ [o] } := rfl
@[simp] theorem emit_role (o : PortOp) (s : State) : (emit o s).role = s.role := rfl
@[simp] theorem emit_params (o : PortOp) (s : State) : (emit o s).params = s.params := rfl
@[simp] theorem emit_slot (o : PortOp) (s : State) (i : Nat) : (emit o s).slot i = s.slot i := rfl

/-! ### takeDraw -/

@[simp] theorem takeDraw_straps (s : State) : (takeDraw s).straps = s.straps := rfl
@[simp] theorem takeDraw_now (s : State) : (takeDraw s).now = s.now := rfl
@[simp] theorem takeDraw_sticky (s : State) : (takeDraw s).sticky = s.sticky := rfl
@[simp] theorem takeDraw_c (s : State) : (takeDraw s).c = s.c := rfl
@[simp] theorem takeDraw_p (s : State) : (takeDraw s).p = s.p := rfl
@[simp] theorem takeDraw_slots (s : State) : (takeDraw s).slots = s.slots := rfl
@[simp] theorem takeDraw_rxp (s : State) : (takeDraw s).rxp = s.rxp := rfl
@[simp] theorem takeDraw_txp (s : State) : (takeDraw s).txp = s.txp := rfl
@[simp] theorem takeDraw_io (s : State) : (takeDraw s).io = { s.io with draws := s.io.draws.tail } := rfl
@[simp] theorem takeDraw_role (s : State) : (takeDraw s).role = s.role := rfl
@[simp] theorem takeDraw_params (s : State) : (takeDraw s).params = s.params := rfl
@[simp] theorem takeDraw_slot (s : State) (i : Nat) : (takeDraw s).slot i = s.slot i := rfl

/-! ### handToTx -/

@[simp] theorem handToTx_straps (d : List Byte) (a : Nat) (s : State) : (handToTx d a s).straps = s.straps := rfl
@[simp] theorem handToTx_now (d : List Byte) (a : Nat) (s : State) : (handToTx d a s).now = s.now := rfl
@[simp] theorem handToTx_sticky (d : List Byte) (a : Nat) (s : State) : (handToTx d a s).sticky = s.sticky := rfl
@[simp] theorem handToTx_c (d : List Byte) (a : Nat) (s : State) : (handToTx d a s).c = s.c := rfl
@[simp] theorem handToTx_p (d : List Byte) (a : Nat) (s : State) : (handToTx d a s).p = s.p := rfl
@[simp] theorem handToTx_slots (d : List Byte) (a : Nat) (s : State) : (handToTx d a s).slots = s.slots := rfl
@[simp] theorem handToTx_rxp (d : List Byte) (a : Nat) (s : State) : (handToTx d a s).rxp = s.rxp := rfl
@[simp] theorem handToTx_txp (d : List Byte) (a : Nat) (s : State) : (handToTx d a s).txp = s.txp := rfl
@[simp] theorem handToTx_io (d : List Byte) (a : Nat) (s : State) : (handToTx d a s).io = { s.io with trace := s.io.trace ++ [.tx d a], txResults := s.io.txResults.tail } := rfl
@[simp] theorem handToTx_role (d : List Byte) (a : Nat) (s : State) : (handToTx d a s).role = s.role := rfl
@[simp] theorem handToTx_params (d : List Byte) (a : Nat) (s : State) : (handToTx d a s).params = s.params := rfl
@[simp] theorem handToTx_slot (d : List Byte) (a : Nat) (s : State) (i : Nat) : (handToTx d a s).slot i = s.slot i := rfl

/-! ### raiseSticky -/

@[simp] theorem raiseSticky_straps (b : StickyBit) (s : State) : (raiseSticky b s).straps = s.straps := rfl
@[simp] theorem raiseSticky_now (b : StickyBit) (s : State) : (raiseSticky b s).now = s.now := rfl
@[simp] theorem raiseSticky_sticky (b : StickyBit) (s : State) : (raiseSticky b s).sticky = stickyWith b s.sticky := rfl
@[simp] theorem raiseSticky_c (b : StickyBit) (s : State) : (raiseSticky b s).c = s.c := rfl
@[simp] theorem raiseSticky_p (b : StickyBit) (s : State) : (raiseSticky b s).p = s.p := rfl
@[simp] theorem raiseSticky_slots (b : StickyBit) (s : State) : (raiseSticky b s).slots = s.slots := rfl
@[simp] theorem raiseSticky_rxp (b : StickyBit) (s : State) : (raiseSticky b s).rxp = s.rxp := rfl
@[simp] theorem raiseSticky_txp (b : StickyBit) (s : State) : (raiseSticky b s).txp = s.txp := rfl
@[simp] theorem raiseSticky_io (b : StickyBit) (s : State) : (raiseSticky b s).io = s.io := rfl
@[simp] theorem raiseSticky_role (b : StickyBit) (s : State) : (raiseSticky b s).role = s.role := rfl
@[simp] theorem raiseSticky_params (b : StickyBit) (s : State) : (raiseSticky b s).params = s.params := rfl
@[simp] theorem raiseSticky_slot (b : StickyBit) (s : State) (i : Nat) : (raiseSticky b s).slot i = s.slot i := rfl

/-! ### drop -/

@[simp] theorem drop_straps (b : StickyBit) (s : State) : (drop b s).straps = s.straps := rfl
@[simp] theorem drop_now (b : StickyBit) (s : State) : (drop b s).now = s.now := rfl
@[simp] theorem drop_sticky (b : StickyBit) (s : State) : (drop b s).sticky = stickyWith b s.sticky := rfl
@[simp] theorem drop_c (b : StickyBit) (s : State) : (drop b s).c = s.c := rfl
@[simp] theorem drop_p (b : StickyBit) (s : State) : (drop b s).p = s.p := rfl
@[simp] theorem drop_slots (b : StickyBit) (s : State) : (drop b s).slots = s.slots := rfl
@[simp] theorem drop_rxp (b : StickyBit) (s : State) : (drop b s).rxp = s.rxp := rfl
@[simp] theorem drop_txp (b : StickyBit) (s : State) : (drop b s).txp = s.txp := rfl
@[simp] theorem drop_io (b : StickyBit) (s : State) : (drop b s).io = s.io := rfl
@[simp] theorem drop_role (b : StickyBit) (s : State) : (drop b s).role = s.role := rfl
@[simp] theorem drop_params (b : StickyBit) (s : State) : (drop b s).params = s.params := rfl
@[simp] theorem drop_slot (b : StickyBit) (s : State) (i : Nat) : (drop b s).slot i = s.slot i := rfl

/-! ### setSlot -/

@[simp] theorem State.setSlot_straps (s : State) (j : Nat) (x : Slot) : (s.setSlot j x).straps = s.straps := rfl
@[simp] theorem State.setSlot_now (s : State) (j : Nat) (x : Slot) : (s.setSlot j x).now = s.now := rfl
@[simp] theorem State.setSlot_sticky (s : State) (j : Nat) (x : Slot) : (s.setSlot j x).sticky = s.sticky := rfl
@[simp] theorem State.setSlot_c (s : State) (j : Nat) (x : Slot) : (s.setSlot j x).c = s.c := rfl
@[simp] theorem State.setSlot_p (s : State) (j : Nat) (x : Slot) : (s.setSlot j x).p = s.p := rfl
@[simp] theorem State.setSlot_slots (s : State) (j : Nat) (x : Slot) : (s.setSlot j x).slots = s.slots.set j x := rfl
@[simp] theorem State.setSlot_rxp (s : State) (j : Nat) (x : Slot) : (s.setSlot j x).rxp = s.rxp := rfl
@[simp] theorem State.setSlot_txp (s : State) (j : Nat) (x : Slot) : (s.setSlot j x).txp = s.txp := rfl
@[simp] theorem State.setSlot_io (s : State) (j : Nat) (x : Slot) : (s.setSlot j x).io = s.io := rfl
@[simp] theorem State.setSlot_role (s : State) (j : Nat) (x : Slot) : (s.setSlot j x).role = s.role := rfl
@[simp] theorem State.setSlot_params (s : State) (j : Nat) (x : Slot) : (s.setSlot j x).params = s.params := rfl

/-! ### countTick -/

@[simp] theorem countTick_straps (s : State) : (countTick s).straps = s.straps := rfl
@[simp] theorem countTick_now (s : State) : (countTick s).now = nextNow s.params s.now := rfl
@[simp] theorem countTick_sticky (s : State) : (countTick s).sticky = s.sticky := rfl
@[simp] theorem countTick_c (s : State) : (countTick s).c = s.c := rfl
@[simp] theorem countTick_p (s : State) : (countTick s).p = s.p := rfl
@[simp] theorem countTick_slots (s : State) : (countTick s).slots = s.slots := rfl
@[simp] theorem countTick_rxp (s : State) : (countTick s).rxp = s.rxp := rfl
@[simp] theorem countTick_txp (s : State) : (countTick s).txp = s.txp := rfl
@[simp] theorem countTick_io (s : State) : (countTick s).io = s.io := rfl
@[simp] theorem countTick_role (s : State) : (countTick s).role = s.role := rfl
@[simp] theorem countTick_params (s : State) : (countTick s).params = s.params := rfl
@[simp] theorem countTick_slot (s : State) (i : Nat) : (countTick s).slot i = s.slot i := rfl

/-! ### closeConn -/

@[simp] theorem closeConn_straps (r : Result) (s : State) : (closeConn r s).straps = s.straps := rfl
@[simp] theorem closeConn_now (r : Result) (s : State) : (closeConn r s).now = s.now := rfl
@[simp] theorem closeConn_sticky (r : Result) (s : State) : (closeConn r s).sticky = s.sticky := rfl
@[simp] theorem closeConn_c (r : Result) (s : State) : (closeConn r s).c = { s.c with state := .closed, result := r } := rfl
@[simp] theorem closeConn_p (r : Result) (s : State) : (closeConn r s).p = { s.p with valid := false } := rfl
@[simp] theorem closeConn_slots (r : Result) (s : State) : (closeConn r s).slots = s.slots := rfl
@[simp] theorem closeConn_rxp (r : Result) (s : State) : (closeConn r s).rxp = s.rxp := rfl
@[simp] theorem closeConn_txp (r : Result) (s : State) : (closeConn r s).txp = s.txp := rfl
@[simp] theorem closeConn_io (r : Result) (s : State) : (closeConn r s).io = s.io := rfl
@[simp] theorem closeConn_role (r : Result) (s : State) : (closeConn r s).role = s.role := rfl
@[simp] theorem closeConn_params (r : Result) (s : State) : (closeConn r s).params = s.params := rfl
@[simp] theorem closeConn_slot (r : Result) (s : State) (i : Nat) : (closeConn r s).slot i = s.slot i := rfl

/-! ### armPending -/

@[simp] theorem armPending_straps (ack off : Word32) (s : State) : (armPending ack off s).straps = s.straps := rfl
@[simp] theorem armPending_now (ack off : Word32) (s : State) : (armPending ack off s).now = s.now := rfl
@[simp] theorem armPending_sticky (ack off : Word32) (s : State) : (armPending ack off s).sticky = s.sticky := rfl
@[simp] theorem armPending_c (ack off : Word32) (s : State) : (armPending ack off s).c = s.c := rfl
@[simp] theorem armPending_p (ack off : Word32) (s : State) : (armPending ack off s).p = { valid := true, seq := s.c.localSeq, ack := ack, sendTime := s.now, sourceOffset := off } := rfl
@[simp] theorem armPending_slots (ack off : Word32) (s : State) : (armPending ack off s).slots = s.slots := rfl
@[simp] theorem armPending_rxp (ack off : Word32) (s : State) : (armPending ack off s).rxp = s.rxp := rfl
@[simp] theorem armPending_txp (ack off : Word32) (s : State) : (armPending ack off s).txp = s.txp := rfl
@[simp] theorem armPending_io (ack off : Word32) (s : State) : (armPending ack off s).io = s.io := rfl
@[simp] theorem armPending_role (ack off : Word32) (s : State) : (armPending ack off s).role = s.role := rfl
@[simp] theorem armPending_params (ack off : Word32) (s : State) : (armPending ack off s).params = s.params := rfl
@[simp] theorem armPending_slot (ack off : Word32) (s : State) (i : Nat) : (armPending ack off s).slot i = s.slot i := rfl

/-! ### loadRxp -/

@[simp] theorem loadRxp_straps (k : Packet) (peer : Nat) (s : State) : (loadRxp k peer s).straps = s.straps := rfl
@[simp] theorem loadRxp_now (k : Packet) (peer : Nat) (s : State) : (loadRxp k peer s).now = s.now := rfl
@[simp] theorem loadRxp_sticky (k : Packet) (peer : Nat) (s : State) : (loadRxp k peer s).sticky = s.sticky := rfl
@[simp] theorem loadRxp_c (k : Packet) (peer : Nat) (s : State) : (loadRxp k peer s).c = s.c := rfl
@[simp] theorem loadRxp_p (k : Packet) (peer : Nat) (s : State) : (loadRxp k peer s).p = s.p := rfl
@[simp] theorem loadRxp_slots (k : Packet) (peer : Nat) (s : State) : (loadRxp k peer s).slots = s.slots := rfl
@[simp] theorem loadRxp_rxp (k : Packet) (peer : Nat) (s : State) :
    (loadRxp k peer s).rxp = packetRegOf s.params k (peerAddrOf s.params peer) := rfl
@[simp] theorem loadRxp_txp (k : Packet) (peer : Nat) (s : State) : (loadRxp k peer s).txp = s.txp := rfl
@[simp] theorem loadRxp_io (k : Packet) (peer : Nat) (s : State) : (loadRxp k peer s).io = s.io := rfl
@[simp] theorem loadRxp_role (k : Packet) (peer : Nat) (s : State) : (loadRxp k peer s).role = s.role := rfl
@[simp] theorem loadRxp_params (k : Packet) (peer : Nat) (s : State) : (loadRxp k peer s).params = s.params := rfl
@[simp] theorem loadRxp_slot (k : Packet) (peer : Nat) (s : State) (i : Nat) : (loadRxp k peer s).slot i = s.slot i := rfl

/-! ### Reading one slot after a write of one slot -/

/-- A slot inside the table reads as it was written. -/
theorem State.setSlot_slot_same (s : State) (i : Nat) (x : Slot) (h : i < s.slots.length) :
    (s.setSlot i x).slot i = x := by
  simp [State.slot, h]

/-- A write of one slot leaves every other slot. -/
theorem State.setSlot_slot_other (s : State) (i j : Nat) (x : Slot) (h : j ≠ i) :
    (s.setSlot i x).slot j = s.slot j := by
  simp [State.slot, List.getElem?_set_ne (Ne.symm h)]

/-- Writing a slot twice keeps the second write. -/
@[simp] theorem State.setSlot_setSlot (s : State) (i : Nat) (x y : Slot) :
    (s.setSlot i x).setSlot i y = s.setSlot i y := by
  simp [State.setSlot, State.setSlots]

/-- An index outside the table writes nothing. -/
theorem State.setSlot_of_length_le {s : State} {i : Nat} (x : Slot) (h : s.slots.length ≤ i) : s.setSlot i x = s := by
  simp only [State.setSlot, State.setSlots, List.set_eq_of_length_le h]

/-- Writing a slot with what it holds changes nothing. -/
@[simp] theorem State.setSlot_slot_self (s : State) (i : Nat) : s.setSlot i (s.slot i) = s := by
  by_cases h : i < s.slots.length
  · simp [State.setSlot, State.setSlots, State.slot, h]
  · exact State.setSlot_of_length_le _ (Nat.not_lt.mp h)

/-- What a slot reads after a write of one slot. -/
theorem State.setSlot_slot (s : State) (i j : Nat) (x : Slot) :
    (s.setSlot i x).slot j = if i = j ∧ i < s.slots.length then x else s.slot j := by
  split
  · rename_i h
    obtain ⟨rfl, h⟩ := h
    exact State.setSlot_slot_same _ _ _ h
  · rename_i h
    by_cases e : j = i
    · subst e; rw [State.setSlot_of_length_le _ (by simpa using h)]
    · exact State.setSlot_slot_other _ _ _ _ e

/-- Two states are equal when every field is. -/
theorem State.eq_of_fields {s t : State} (hst : s.straps = t.straps) (hnow : s.now = t.now)
    (hsticky : s.sticky = t.sticky) (hc : s.c = t.c) (hp : s.p = t.p) (hslots : s.slots = t.slots)
    (hrxp : s.rxp = t.rxp) (htxp : s.txp = t.txp) (hio : s.io = t.io) : s = t := by
  cases s; cases t; simp_all

/-! ### Straps, role and parameters -/

/-- The role is read from the straps. -/
theorem State.role_eq (s : State) : s.role = s.straps.role := rfl

/-- The parameters are read from the straps. -/
theorem State.params_eq (s : State) : s.params = s.straps.params := rfl

end Sys2Proof.Machine
end

