-- ==== Sys2Proof/Laws/Ops.lean ====
section
/-! SUPPORT. What each shared operation does, said once: transmission and its failures (spec R204, R247, R284), the slot
searches (R233, R236), `close_sink` (R246), and the arrival of a packet (R166, R182, R231). -/

namespace Sys2Proof.Machine

/-! ### Transmission -/

/-- `Tx(ENCODE(k), dest)` of a packet that fits (R131, R284). -/
theorem transmit_fits {k : Packet} {dest : Nat} {s : State} (h : k.payload.length ≤ s.params.maxPayload) :
    transmit k dest s = (txOutcome s, handToTx (packetBytes k) dest (s.setTxp (packetRegOf s.params k dest))) := by
  simp [transmit, encodePacket, h]

/-- `Tx(ENCODE(k), dest)` of a packet that does not fit (R132, R333). -/
theorem transmit_refused {k : Packet} {dest : Nat} {s : State} (h : s.params.maxPayload < k.payload.length) :
    transmit k dest s = (.ok, raiseSticky .encLen (s.setTxp (packetRegOf s.params k dest))) := by
  simp [transmit, encodePacket, Nat.not_le.mpr h]

/-- `tx_or_die` whose `Tx` succeeds (R204). -/
theorem txOrDie_ok {k : Packet} {s : State} (h : k.payload.length ≤ s.params.maxPayload) (ho : txOutcome s = .ok) :
    txOrDie k s = handToTx (packetBytes k) s.c.peerAddr (s.setTxp (packetRegOf s.params k s.c.peerAddr)) := by
  simp [txOrDie, transmit_fits h, ho]

/-- `tx_or_die` whose `Tx` fails (R204, R311). -/
theorem txOrDie_fail {k : Packet} {s : State} (h : k.payload.length ≤ s.params.maxPayload)
    (ho : txOutcome s = .fail) :
    txOrDie k s =
      closeConn .errTransport (handToTx (packetBytes k) s.c.peerAddr (s.setTxp (packetRegOf s.params k s.c.peerAddr))) := by
  simp [txOrDie, transmit_fits h, ho]

/-- A reply whose `Tx` succeeds (R253). -/
theorem replyTx_ok {i : Nat} {k : Packet} {s : State} (h : k.payload = []) (ho : txOutcome s = .ok) :
    replyTx i k s = (.ok, handToTx (packetBytes k) s.rxp.peer (s.setTxp (packetRegOf s.params k s.rxp.peer))) := by
  simp [replyTx, transmit_fits (s := s) (dest := s.rxp.peer) (k := k) (by simp [h]), ho]

/-- A reply whose `Tx` fails aborts the slot (R247). -/
theorem replyTx_fail {i : Nat} {k : Packet} {s : State} (h : k.payload = []) (ho : txOutcome s = .fail) :
    replyTx i k s =
      (.fail, abortSlot i (handToTx (packetBytes k) s.rxp.peer (s.setTxp (packetRegOf s.params k s.rxp.peer)))) := by
  simp [replyTx, transmit_fits (s := s) (dest := s.rxp.peer) (k := k) (by simp [h]), ho]

/-- A slot's reply has no payload (R113). -/
@[simp] theorem slotPacket_payload (x : Slot) (f : Word16) : (slotPacket x f).payload = [] := rfl

/-- A bare packet has no payload. -/
@[simp] theorem barePacket_payload (f : Word16) (a b : Word32) (c : Word16) : (barePacket f a b c).payload = [] := rfl

/-! ### Slots -/

/-- An index of the table reads one of its slots. -/
theorem State.slot_of_lt {s : State} {i : Nat} (h : i < s.slots.length) : s.slot i = s.slots[i] := by
  simp [State.slot, h]

/-- `lookup(id)` finds a slot in use with that id (R236). -/
theorem lookupSlot_some {s : State} {id : Word16} {n : Nat} (h : lookupSlot s id = some n) :
    n < s.slots.length ∧ (s.slot n).inUse = true ∧ (s.slot n).connId = id := by
  unfold lookupSlot at h
  obtain ⟨hn, hp, -⟩ := List.findIdx?_eq_some_iff_getElem.mp h
  simp only [Bool.and_eq_true, beq_iff_eq] at hp
  rw [State.slot_of_lt hn]
  exact ⟨hn, hp⟩

/-- `lookup(id)` misses when no slot in use has the id (R237). -/
theorem lookupSlot_eq_none_iff {s : State} {id : Word16} :
    lookupSlot s id = none ↔ ∀ x ∈ s.slots, x.inUse = true → x.connId ≠ id := by
  simp [lookupSlot]

/-- The SYN scan finds a candidate slot below which there is none (R233). -/
theorem findCandidate_some {s : State} {n : Nat} (h : findCandidate s = some n) :
    n < s.slots.length ∧ slotCandidate s.params s.now (s.slot n) = true ∧
      ∀ j < n, slotCandidate s.params s.now (s.slot j) = false := by
  unfold findCandidate at h
  obtain ⟨hn, hp, hl⟩ := List.findIdx?_eq_some_iff_getElem.mp h
  refine ⟨hn, by rw [State.slot_of_lt hn]; exact hp, fun j hj => ?_⟩
  rw [State.slot_of_lt (by omega)]
  simpa using hl j hj

/-- The SYN scan finds nothing when no slot is a candidate (R235). -/
theorem findCandidate_eq_none_iff {s : State} :
    findCandidate s = none ↔ ∀ x ∈ s.slots, slotCandidate s.params s.now x = false := by
  simp [findCandidate]

/-- `close_sink(i)` of an open sink (R246). -/
theorem closeSink_open {i : Nat} {s : State} (h : (s.slot i).sinkOpen = true) :
    closeSink i s = (emit (.sinkClose (s.slot i).connId) s).setSlot i { s.slot i with sinkOpen := false } := by
  simp [closeSink, h]

/-- `close_sink(i)` of a closed sink does nothing (R246). -/
theorem closeSink_closed {i : Nat} {s : State} (h : (s.slot i).sinkOpen = false) : closeSink i s = s := by
  simp [closeSink, h]

/-! ### Arrival -/

/-- A packet at the responder (R231). -/
theorem arrive_responder {f g : State → State} {s : State} (h : s.role = .responder) :
    arrive f g s = .next (g s) := by
  simp [arrive, h]

/-- A packet at the initiator in a state that examines it (R166, R182). -/
theorem arrive_initiator_active {f g : State → State} {s : State} (h : s.role = .initiator)
    (ha : s.c.state.active = true) : arrive f g s = .next (f (s.setC { s.c with lastActivity := s.now })) := by
  simp [arrive, h, ha]

/-- A packet at the initiator in IDLE or CLOSED (R202, log 21). -/
theorem arrive_initiator_inactive {f g : State → State} {s : State} (h : s.role = .initiator)
    (ha : s.c.state.active = false) : arrive f g s = .next s := by
  simp [arrive, h, ha]

end Sys2Proof.Machine
end

