-- ==== Sys2Proof/Laws/Initiator.lean ====
section
/-! SUPPORT. What sending the outstanding packet can do (spec R184, R204), and the ranges of the arithmetic the rules use
(R140, R142, R292). -/

namespace Sys2Proof.Machine

/-- What an operation that only transmits leaves unchanged. -/
structure SendFrame (s u : State) : Prop where
  straps : u.straps = s.straps
  now : u.now = s.now
  c : u.c = s.c
  p : u.p = s.p
  slots : u.slots = s.slots
  rxp : u.rxp = s.rxp

/-- `Tx` changes neither record, the table, the counter nor `RXP` (R284). -/
theorem transmit_frame (k : Packet) (dest : Nat) (s : State) : SendFrame s (transmit k dest s).2 := by
  unfold transmit
  split <;> exact ⟨rfl, rfl, rfl, rfl, rfl, rfl⟩

/-- `tx_or_die` either only transmits, or closes after it (R204). -/
theorem txOrDie_cases (k : Packet) (s : State) :
    ∃ u, SendFrame s u ∧ (txOrDie k s = u ∨ txOrDie k s = closeConn .errTransport u) := by
  refine ⟨_, transmit_frame k s.c.peerAddr s, ?_⟩
  unfold txOrDie
  split
  · rename_i t h; exact .inl (by rw [h])
  · rename_i t h; exact .inr (by rw [h])

/-- A packet is outstanding exactly in SYN_SENT, ESTABLISHED and FIN_SENT (R34, R184). -/
theorem pendingPacket_isSome (s : State) : (pendingPacket s).isSome = s.c.state.sending := by
  unfold pendingPacket
  cases s.c.state <;> rfl

/-- The source read of a transmission changes nothing of the block (R184, R287). -/
theorem noteSrcRead_frame (s : State) : SendFrame s (noteSrcRead s) := by
  unfold noteSrcRead
  split <;> exact ⟨rfl, rfl, rfl, rfl, rfl, rfl⟩

/-- Sending the outstanding packet either only transmits, or closes after it, and the latter only where a packet is
outstanding (R184, R204). -/
theorem sendPending_cases (s : State) :
    ∃ u, SendFrame s u ∧
      (sendPending s = u ∨ (s.c.state.sending = true ∧ sendPending s = closeConn .errTransport u)) := by
  unfold sendPending
  cases hp : pendingPacket s with
  | none => exact ⟨s, ⟨rfl, rfl, rfl, rfl, rfl, rfl⟩, .inl rfl⟩
  | some k =>
    have hs : s.c.state.sending = true := by rw [← pendingPacket_isSome, hp]; rfl
    have n := noteSrcRead_frame s
    obtain ⟨u, f, h⟩ := txOrDie_cases k (noteSrcRead s)
    refine ⟨u, ⟨f.straps.trans n.straps, f.now.trans n.now, f.c.trans n.c, f.p.trans n.p, f.slots.trans n.slots,
      f.rxp.trans n.rxp⟩, ?_⟩
    exact h.imp id fun h => ⟨hs, h⟩

/-- A chunk never exceeds `MAX_PAYLOAD` (R6, R185). -/
theorem chunkLen_le {s : State} (h : s.params.Wf) : chunkLen s ≤ s.params.maxPayload := by
  have : s.params.chunk = s.params.maxPayload := h.2.2.2.2.2.2.1
  unfold chunkLen
  omega

/-- A drawn initial sequence number is below `MAX_SEQ` (R292). -/
theorem isnOf_lt {q : Params} (h : q.Wf) (draw : Word16) : (isnOf q draw).toNat < q.maxSeq := by
  have h1 : q.maxPayload + 1 ≤ q.maxSeq := h.2.2.2.1
  have h2 : q.maxSeq ≤ 2 ^ 32 := h.2.2.2.2.1
  have := Nat.mod_lt draw.toNat (show 0 < q.maxSeq by omega)
  unfold isnOf
  rw [BitVec.toNat_ofNat, Nat.mod_eq_of_lt (by omega)]
  exact this

/-- Addition of a chunk to the offset does not wrap while the offset is inside the source (R151). -/
theorem nextOffset_toNat {s : State} (h : s.p.sourceOffset.toNat ≤ s.c.srcLen.toNat) :
    (nextOffset s).toNat = s.p.sourceOffset.toNat + chunkLen s := by
  have hc : chunkLen s = min s.params.chunk (s.c.srcLen.toNat - s.p.sourceOffset.toNat) := rfl
  have hl := s.c.srcLen.isLt
  unfold nextOffset
  rw [BitVec.toNat_add, BitVec.toNat_ofNat, Nat.mod_eq_of_lt (a := chunkLen s) (by omega), Nat.mod_eq_of_lt (by omega)]

/-- What `send_next` can do (R190): the FIN when nothing is left, the next chunk otherwise. -/
theorem sendNext_cases (off : Word32) (s : State) :
    (off = s.c.srcLen ∧ sendNext off s = sendPending (enterFinSent off s)) ∨
    (off ≠ s.c.srcLen ∧ sendNext off s = sendPending (armPending s.c.peerAckExpected off s)) := by
  unfold sendNext
  split
  · rename_i h; exact .inl ⟨h, rfl⟩
  · rename_i h; exact .inr ⟨h, rfl⟩

/-- What the deadline evaluation can do (R168): at most one deadline acts, abort before linger before round. -/
theorem evalDeadlines_cases (s : State) :
    (abortExpired s = true ∧ evalDeadlines s = closeConn (abortResult s) s) ∨
    (abortExpired s = false ∧ lingerExpired s = true ∧ evalDeadlines s = closeConn .ok s) ∨
    (abortExpired s = false ∧ lingerExpired s = false ∧ roundExpired s = true ∧ evalDeadlines s = resendPending s) ∨
    (abortExpired s = false ∧ lingerExpired s = false ∧ roundExpired s = false ∧ evalDeadlines s = s) := by
  unfold evalDeadlines
  cases abortExpired s <;> cases lingerExpired s <;> cases roundExpired s <;> simp

end Sys2Proof.Machine
end

