-- ==== Sys2Proof/Laws/PerInstr.lean ====
section
/-! SUPPORT. Statements made instruction by instruction. The family `PacketOf` says that the packet an instruction
stands for is classified as that instruction, with every operand, and encodes to a header and the payload. -/

namespace Sys2Proof.Laws.PacketOf

/-- Under well-formed parameters the packet of `i` classifies as `i` (R106, R107) and encodes to `HDR_LEN` bytes and the
payload (R131). -/
def Statement (i : Instr) : Prop :=
  ∀ q : Params, q.Wf →
    classifyPacket q (instrPacket q i) = some i ∧ (encode q i).length = q.hdrLen + i.payload.length

/-- What makes the statement true of an instruction, whichever it is. -/
theorem Statement.intro (i : Instr) : Statement i := by
  intro q hq
  refine ⟨classifyPacket_instrPacket hq i, ?_⟩
  rw [encode, packetBytes_length, instrPacket_payload, hq.hdrLen_eq]

theorem data (s a : Word32) (c : Word16) (b : List Byte) : Statement (.data s a c b) :=
  Statement.intro _

theorem fin (s a : Word32) (c : Word16) (b : List Byte) : Statement (.fin s a c b) :=
  Statement.intro _

theorem syn (s a : Word32) (c : Word16) (b : List Byte) : Statement (.syn s a c b) :=
  Statement.intro _

theorem ack (s a : Word32) (c : Word16) (b : List Byte) : Statement (.ack s a c b) :=
  Statement.intro _

theorem finack (s a : Word32) (c : Word16) (b : List Byte) : Statement (.finack s a c b) :=
  Statement.intro _

theorem synack (s a : Word32) (c : Word16) (b : List Byte) : Statement (.synack s a c b) :=
  Statement.intro _

end Sys2Proof.Laws.PacketOf
end

