-- ==== Sys2Proof/Laws/Responder.lean ====
section
/-! SUPPORT. What each operation on a slot does, as one write of that slot after the sink operations it issues (spec
R239 to R247). -/

namespace Sys2Proof.Machine

/-- `abort_slot(i)` (R247): the sink is closed if it is open, the slot freed, `SLOT_ABORT` set. -/
theorem abortSlot_eq (i : Nat) (s : State) :
    abortSlot i s =
      raiseSticky .slotAbort
        ((if (s.slot i).sinkOpen then emit (.sinkClose (s.slot i).connId) s else s).setSlot i Slot.free) := by
  unfold abortSlot freeSlot closeSink
  split <;> simp

/-- `close_sink(i)` (R246): the sink is closed if it is open, and then the slot holds it closed. -/
theorem closeSink_eq (i : Nat) (s : State) :
    closeSink i s =
      (if (s.slot i).sinkOpen then emit (.sinkClose (s.slot i).connId) s else s).setSlot i
        { s.slot i with sinkOpen := false } := by
  unfold closeSink
  split
  · rfl
  · rename_i h
    have e : { s.slot i with sinkOpen := false } = s.slot i := by
      cases hx : s.slot i; simp_all
    rw [e, State.setSlot_slot_self]

/-- Delivery (R239, R240): in order, the payload is written and flushed and `ack` advances; else nothing changes. -/
theorem deliver_eq (i : Nat) (seq : Word32) (b : List Byte) (s : State) :
    deliver i seq b s =
      (if seq = (s.slot i).ack ∧ b ≠ [] then
          emit (.sinkFlush (s.slot i).connId) (emit (.sinkWrite (s.slot i).connId b) s)
        else s).setSlot i
        { s.slot i with
          ack := if seq = (s.slot i).ack then addSeq s.params (s.slot i).ack b.length else (s.slot i).ack } := by
  unfold deliver
  by_cases h : seq = (s.slot i).ack
  · by_cases hb : b = []
    · simp [h, hb]
    · by_cases hi : i < s.slots.length
      · simp only [h, hb, if_true, if_false, and_self, ne_eq, not_false_eq_true]
        rfl
      · have hi' := Nat.not_lt.mp hi
        simp only [h, hb, if_true, if_false, and_self, ne_eq, not_false_eq_true, State.setSlot_of_length_le _ hi']
        rw [State.setSlot_of_length_le _ (by simpa [emit] using hi')]
  · simp only [h, if_false, false_and]
    exact (State.setSlot_slot_self s i).symm

/-- Reconciliation (R241): `seq` advances by one when the `ack` of the packet says so. -/
theorem reconcile_eq (i : Nat) (ack : Word32) (s : State) :
    reconcile i ack s =
      s.setSlot i
        { s.slot i with
          seq :=
            if ack ≠ (s.slot i).seq ∧ ack = addSeq s.params (s.slot i).seq 1 then addSeq s.params (s.slot i).seq 1
            else (s.slot i).seq } := by
  unfold reconcile
  split
  · rename_i h
    simp only [h, ne_eq, not_true_eq_false, false_and, if_false]
    exact (State.setSlot_slot_self s i).symm
  · split
    · rename_i h1 h2
      rw [if_pos ⟨h1, h2⟩]
    · rename_i h1 h2
      rw [if_neg (fun h => h2 h.2)]
      exact (State.setSlot_slot_self s i).symm

/-- The advance of a FIN (R243): `ack` moves by one when the FIN is in order. -/
theorem advanceFin_eq (i : Nat) (seq : Word32) (s : State) :
    advanceFin i seq s =
      s.setSlot i
        { s.slot i with
          ack := if seq = (s.slot i).ack then addSeq s.params (s.slot i).ack 1 else (s.slot i).ack } := by
  unfold advanceFin
  split
  · rfl
  · exact (State.setSlot_slot_self s i).symm

/-- A reply changes neither the straps, the counter, `C`, `P` nor `RXP` (R247, R253). -/
theorem replyTx_frame (i : Nat) (k : Packet) (s : State) :
    (replyTx i k s).2.straps = s.straps ∧ (replyTx i k s).2.now = s.now ∧ (replyTx i k s).2.c = s.c ∧
      (replyTx i k s).2.p = s.p ∧ (replyTx i k s).2.rxp = s.rxp := by
  have f := transmit_frame k s.rxp.peer s
  unfold replyTx
  split
  · rename_i t h
    rw [h] at f
    exact ⟨f.straps, f.now, f.c, f.p, f.rxp⟩
  · rename_i t h
    rw [h] at f
    rw [abortSlot_eq]
    split <;> exact ⟨f.straps, f.now, f.c, f.p, f.rxp⟩

/-- The slot write of a SYN (R234): the old sink of an expired slot is closed, then the record is written anew, the draw
consumed and the sink opened. -/
theorem openSlot_reclaimSlot_eq {i : Nat} {seq : Word32} {s : State} :
    openSlot i seq (reclaimSlot i s) =
      emit (.sinkOpen (BitVec.ofNat 16 (i + 1)))
        ((takeDraw
          (if (s.slot i).inUse ∧ (s.slot i).sinkOpen then emit (.sinkClose (s.slot i).connId) s else s)).setSlot i
          (newSlot i seq s)) := by
  unfold openSlot reclaimSlot
  by_cases hu : (s.slot i).inUse = true
  · by_cases ho : (s.slot i).sinkOpen = true
    · simp only [hu, if_true, closeSink_open ho, ho, and_self]
      apply State.eq_of_fields <;> simp [newSlot, drawValue]
    · have ho' : (s.slot i).sinkOpen = false := by simpa using ho
      simp [hu, ho', closeSink_closed ho']
  · simp [hu]

/-- What answering a FIN can do (R244, R245, R247): the first reply fails, the second fails, or both succeed and the
slot is marked. -/
theorem answerFin_cases (i : Nat) (s : State) :
    (∃ t, replyTx i (slotPacket (s.slot i) (flagsAck s.params)) s = (.fail, t) ∧ answerFin i s = t) ∨
    (∃ t u, replyTx i (slotPacket (s.slot i) (flagsAck s.params)) s = (.ok, t) ∧
      replyTx i (slotPacket (t.slot i) t.params.rspFinFlags) t = (.fail, u) ∧ answerFin i s = u) ∨
    (∃ t u, replyTx i (slotPacket (s.slot i) (flagsAck s.params)) s = (.ok, t) ∧
      replyTx i (slotPacket (t.slot i) t.params.rspFinFlags) t = (.ok, u) ∧ answerFin i s = markFin i u) := by
  unfold answerFin
  split
  · rename_i t h
    exact .inl ⟨t, h, rfl⟩
  · rename_i t h
    split
    · rename_i u g
      exact .inr (.inl ⟨t, u, h, g, rfl⟩)
    · rename_i u g
      exact .inr (.inr ⟨t, u, h, g, rfl⟩)

end Sys2Proof.Machine
end

