-- ==== Sys2Proof/Laws/Step.lean ====
section
/-! SUPPORT. What one step can do, said once: the environment's turn, then one of the events of spec R9, its request
cleared (R321, R322). -/

namespace Sys2Proof.Machine

/-- What `decode` answers `ok` to, `DECODE` reads as the packet of that instruction (R133, R136). -/
theorem decodePacket_of_decode {q : Params} {d : List Byte} {i : Instr} (h : decode q d = .ok i) :
    decodePacket q d = some (instrPacket q i) := by
  unfold decode at h
  split at h
  · cases h
  · rename_i k hk
    split at h
    · cases h
    · rename_i j hj
      cases h
      rw [hk, classifyPacket_eq_some hj]

/-- The state in which an event is served: the turn is over and the event's request cleared (R321). -/
def served (e : Event) (s : State) : State := (takeTurn s).setIo (clearRequest e (takeTurn s).io)

/-- What the receive path can answer: the discard of R202, `MALFORMED` (R315), the drop of a reserved kind (R150), or a
packet to execute with `RXP` loaded. -/
theorem receive_cases (d : Datagram) (s : State) :
    (discardsRx s = true ∧ receive d s = .done (noteTruncation d s)) ∨
    (discardsRx s = false ∧ decodePacket s.params (deliveredBytes s.params d) = none ∧
      receive d s = .done (drop .malformed (noteTruncation d s))) ∨
    (∃ k, discardsRx s = false ∧ decodePacket s.params (deliveredBytes s.params d) = some k ∧ classifyPacket s.params k = none ∧
      receive d s = .done (receiveReserved (loadRxp k d.peer (noteTruncation d s)))) ∨
    (∃ k i, discardsRx s = false ∧ decodePacket s.params (deliveredBytes s.params d) = some k ∧ classifyPacket s.params k = some i ∧
      receive d s = .run i (loadRxp k d.peer (noteTruncation d s))) := by
  unfold receive
  cases hd : discardsRx s with
  | true => simp
  | false =>
    cases hk : decodePacket s.params (deliveredBytes s.params d) with
    | none => simp
    | some k =>
      cases hi : classifyPacket s.params k with
      | none => exact .inr (.inr (.inl ⟨k, by simp [hi]⟩))
      | some i => exact .inr (.inr (.inr ⟨k, i, by simp [hi]⟩))

/-- What a step can do: stay as the turn left the state, serve one of the five events, or execute a packet. -/
theorem step_cases {s t : State} (h : step s = .next t) :
    (arbitrate (takeTurn s).io = none ∧ t = takeTurn s) ∨
    (arbitrate (takeTurn s).io = some .reset ∧ t = resetMachine (served .reset s)) ∨
    (arbitrate (takeTurn s).io = some .rxErr ∧ t = eventRxErr (served .rxErr s)) ∨
    (arbitrate (takeTurn s).io = some .start ∧ t = eventStart (served .start s)) ∨
    (arbitrate (takeTurn s).io = some .tick ∧ t = eventTick (served .tick s)) ∨
    (∃ d, arbitrate (takeTurn s).io = some (.rx d) ∧
      ((discardsRx (served (.rx d) s) = true ∧ t = noteTruncation d (served (.rx d) s)) ∨
        (discardsRx (served (.rx d) s) = false ∧ t = drop .malformed (noteTruncation d (served (.rx d) s))) ∨
        (∃ k, discardsRx (served (.rx d) s) = false ∧
          t = receiveReserved (loadRxp k d.peer (noteTruncation d (served (.rx d) s)))) ∨
        (∃ k i, discardsRx (served (.rx d) s) = false ∧
          decodePacket (takeTurn s).params (deliveredBytes (takeTurn s).params d) = some k ∧
          classifyPacket (takeTurn s).params k = some i ∧
          exec i (loadRxp k d.peer (noteTruncation d (served (.rx d) s))) = .next t))) := by
  unfold step fetchEvent at h
  cases ha : arbitrate (takeTurn s).io with
  | none =>
    simp only [ha, Host.Outcome.next.injEq] at h
    exact .inl ⟨rfl, h.symm⟩
  | some e =>
    simp only [ha] at h
    cases e with
    | reset =>
      simp only [serve, Host.Outcome.next.injEq] at h
      exact .inr (.inl ⟨rfl, h.symm⟩)
    | rxErr =>
      simp only [serve, Host.Outcome.next.injEq] at h
      exact .inr (.inr (.inl ⟨rfl, h.symm⟩))
    | start =>
      simp only [serve, Host.Outcome.next.injEq] at h
      exact .inr (.inr (.inr (.inl ⟨rfl, h.symm⟩)))
    | tick =>
      simp only [serve, Host.Outcome.next.injEq] at h
      exact .inr (.inr (.inr (.inr (.inl ⟨rfl, h.symm⟩))))
    | rx d =>
      refine .inr (.inr (.inr (.inr (.inr ⟨d, rfl, ?_⟩))))
      simp only [serve] at h
      rcases receive_cases d (served (.rx d) s) with ⟨hd, hr⟩ | ⟨hd, -, hr⟩ | ⟨k, hd, -, -, hr⟩ | ⟨k, i, hd, hk, hi, hr⟩ <;>
        rw [served] at hr <;> rw [hr] at h
      · exact .inl ⟨hd, (Host.Outcome.next.inj h).symm⟩
      · exact .inr (.inl ⟨hd, (Host.Outcome.next.inj h).symm⟩)
      · exact .inr (.inr (.inl ⟨k, hd, (Host.Outcome.next.inj h).symm⟩))
      · exact .inr (.inr (.inr ⟨k, i, hd, hk, hi, h⟩))

/-- What executing a packet can do at the responder (R231). -/
theorem exec_responder_cases {i : Instr} {s t : State} (hr : s.role = .responder) (h : exec i s = .next t) :
    (∃ pureAck seq ack id b, t = responderData pureAck seq ack id b s) ∨
    (∃ seq, t = responderSyn seq s) ∨ (∃ seq id, t = responderFin seq id s) ∨ t = drop .rsvdFlags s := by
  cases i with
  | data seq ack id b =>
    simp only [exec, execData, arrive_responder hr, Host.Outcome.next.injEq] at h
    exact .inl ⟨_, _, _, _, _, h.symm⟩
  | fin seq ack id b =>
    simp only [exec, execFin, arrive_responder hr, Host.Outcome.next.injEq] at h
    exact .inr (.inr (.inl ⟨_, _, h.symm⟩))
  | syn seq ack id b =>
    simp only [exec, execSyn, arrive_responder hr, Host.Outcome.next.injEq] at h
    exact .inr (.inl ⟨_, h.symm⟩)
  | ack seq ack id b =>
    simp only [exec, execAck, arrive_responder hr, Host.Outcome.next.injEq] at h
    exact .inl ⟨_, _, _, _, _, h.symm⟩
  | finack seq ack id b =>
    simp only [exec, execFinack, arrive_responder hr, Host.Outcome.next.injEq] at h
    exact .inr (.inr (.inr h.symm))
  | synack seq ack id b =>
    simp only [exec, execSynack, arrive_responder hr, Host.Outcome.next.injEq] at h
    exact .inr (.inr (.inr h.symm))

/-- What executing a packet can do at the initiator in a state that examines it (R166, R182); `u` is the state with the
abort deadline restarted. -/
theorem exec_initiator_cases {i : Instr} {s t : State} (hr : s.role = .initiator) (ha : s.c.state.active = true)
    (h : exec i s = .next t) :
    ∃ u, u = s.setC { s.c with lastActivity := s.now } ∧
      (t = drop .rsvdFlags u ∨ (∃ seq ack id, t = initiatorSynack seq ack id u) ∨ (∃ ack, t = initiatorAck ack u) ∨
        ∃ kind seq ack, t = initiatorFin kind seq ack u) := by
  refine ⟨_, rfl, ?_⟩
  cases i with
  | data seq ack id b =>
    simp only [exec, execData, arrive_initiator_active hr ha, Host.Outcome.next.injEq] at h
    exact .inl h.symm
  | fin seq ack id b =>
    simp only [exec, execFin, arrive_initiator_active hr ha, Host.Outcome.next.injEq] at h
    exact .inr (.inr (.inr ⟨_, _, _, h.symm⟩))
  | syn seq ack id b =>
    simp only [exec, execSyn, arrive_initiator_active hr ha, Host.Outcome.next.injEq] at h
    exact .inl h.symm
  | ack seq ack id b =>
    simp only [exec, execAck, arrive_initiator_active hr ha, Host.Outcome.next.injEq] at h
    exact .inr (.inr (.inl ⟨_, h.symm⟩))
  | finack seq ack id b =>
    simp only [exec, execFinack, arrive_initiator_active hr ha, Host.Outcome.next.injEq] at h
    exact .inr (.inr (.inr ⟨_, _, _, h.symm⟩))
  | synack seq ack id b =>
    simp only [exec, execSynack, arrive_initiator_active hr ha, Host.Outcome.next.injEq] at h
    exact .inr (.inl ⟨_, _, _, h.symm⟩)

/-- Executing a packet at the initiator in IDLE or CLOSED leaves the state (R202, log 21). -/
theorem exec_initiator_inactive {i : Instr} {s : State} (hr : s.role = .initiator) (ha : s.c.state.active = false) :
    exec i s = .next s := by
  cases i <;> simp only [exec, execData, execFin, execSyn, execAck, execFinack, execSynack,
    arrive_initiator_inactive hr ha]

end Sys2Proof.Machine
end

