-- ==== Sys2Proof/Laws/Trace.lean ====
section
/-! SUPPORT. The trace predicates of Safety.lean over operations issued one after the other (spec R11, R82). -/

namespace Sys2Proof.Machine

/-- The content of a sink after two stretches of operations. -/
theorem sinkContent_append (id : Word16) (acc : List Byte) (a b : List PortOp) :
    sinkContent id acc (a ++ b) = sinkContent id (sinkContent id acc a) b := by
  induction a generalizing acc with
  | nil => rfl
  | cons o rest ih => cases o <;> simp [sinkContent, ih]

/-- Whether a sink is open after two stretches of operations. -/
theorem sinkOpenAfter_append (id : Word16) (o : Bool) (a b : List PortOp) :
    sinkOpenAfter id o (a ++ b) = sinkOpenAfter id (sinkOpenAfter id o a) b := by
  induction a generalizing o with
  | nil => rfl
  | cons x rest ih => cases x <;> simp [sinkOpenAfter, ih]

/-- Legal use of a sink over two stretches of operations. -/
theorem sinkUseLegal_append (id : Word16) (o : Bool) (a b : List PortOp) :
    sinkUseLegal id o (a ++ b) = (sinkUseLegal id o a && sinkUseLegal id (sinkOpenAfter id o a) b) := by
  induction a generalizing o with
  | nil => simp [sinkUseLegal, sinkOpenAfter]
  | cons x rest ih =>
    cases x <;> simp only [List.cons_append, sinkUseLegal, sinkOpenAfter, ih, Bool.and_assoc] <;> split <;>
      simp [Bool.and_assoc]

/-- Legal transmissions over two stretches of operations. -/
theorem legalTransmissions_append (r : Role) (q : Params) (a b : List PortOp) :
    legalTransmissions r q (a ++ b) = (legalTransmissions r q a && legalTransmissions r q b) := by
  induction a with
  | nil => simp [legalTransmissions]
  | cons x rest ih => cases x <;> simp [legalTransmissions, ih, Bool.and_assoc]

/-- Legal source reads over two stretches of operations. -/
theorem legalReads_append (q : Params) (n : Nat) (a b : List PortOp) :
    legalReads q n (a ++ b) = (legalReads q n a && legalReads q n b) := by
  induction a with
  | nil => simp [legalReads]
  | cons x rest ih => cases x <;> simp [legalReads, ih, Bool.and_assoc]

/-- What a state whose trace extends another's has issued since. -/
theorem issuedOps_of_trace {s t : State} {ops : List PortOp} (h : t.io.trace = s.io.trace ++ ops) :
    issuedOps s t = ops := by
  simp [issuedOps, h]

end Sys2Proof.Machine
end

