-- ==== Sys2Proof/Laws/Turn.lean ====
section
/-! SUPPORT. What the environment's turn and the clearing of a request leave unchanged (spec R53, R294, R321; log 6,
log 13). -/

namespace Sys2Proof.Machine

/-- What the environment's turn leaves unchanged: everything of the block but the two fields of `C` a host write can
reach, and these only in IDLE (R53, R367); of the ports, what the block itself produces and consumes. -/
structure TurnFrame (s t : State) : Prop where
  straps : t.straps = s.straps
  now : t.now = s.now
  sticky : t.sticky = s.sticky
  c : t.c = { s.c with srcLen := t.c.srcLen, peerAddr := t.c.peerAddr }
  cKept : s.c.state ≠ .idle → t.c = s.c
  p : t.p = s.p
  slots : t.slots = s.slots
  rxp : t.rxp = s.rxp
  txp : t.txp = s.txp
  trace : t.io.trace = s.io.trace
  draws : t.io.draws = s.io.draws
  txResults : t.io.txResults = s.io.txResults

/-- A state is related to itself. -/
theorem TurnFrame.refl (s : State) : TurnFrame s s :=
  ⟨rfl, rfl, rfl, rfl, fun _ => rfl, rfl, rfl, rfl, rfl, rfl, rfl, rfl⟩

/-- Two turns in a row. -/
theorem TurnFrame.trans {s t u : State} (h : TurnFrame s t) (g : TurnFrame t u) : TurnFrame s u where
  straps := g.straps.trans h.straps
  now := g.now.trans h.now
  sticky := g.sticky.trans h.sticky
  c := by
    have hc := h.c
    have gc := g.c
    rw [gc, hc]
  cKept := fun hs => by
    have := h.cKept hs
    exact (g.cKept (by rw [this]; exact hs)).trans this
  p := g.p.trans h.p
  slots := g.slots.trans h.slots
  rxp := g.rxp.trans h.rxp
  txp := g.txp.trans h.txp
  trace := g.trace.trans h.trace
  draws := g.draws.trans h.draws
  txResults := g.txResults.trans h.txResults

/-- A write of one of the registers that are writable only in IDLE (R53, R56). -/
theorem TurnFrame.writeInIdle {c : Conn} {s : State}
    (h : c = { s.c with srcLen := c.srcLen, peerAddr := c.peerAddr }) : TurnFrame s (writeInIdle c s) := by
  unfold Sys2Proof.Machine.writeInIdle
  split
  · rename_i hi
    exact ⟨rfl, rfl, rfl, h, fun hn => absurd hi hn, rfl, rfl, rfl, rfl, rfl, rfl, rfl⟩
  · exact TurnFrame.refl s

/-- One action of the environment. -/
theorem TurnFrame.applyAct (s : State) (a : PortAct) : TurnFrame s (applyAct s a) := by
  cases a with
  | hostWrite number value =>
    unfold Sys2Proof.Machine.applyAct hostWrite
    dsimp only
    split
    · split
      · exact ⟨rfl, rfl, rfl, rfl, fun _ => rfl, rfl, rfl, rfl, rfl, rfl, rfl, rfl⟩
      · exact TurnFrame.refl s
    · split
      · exact TurnFrame.writeInIdle rfl
      · split
        · exact TurnFrame.writeInIdle rfl
        · split
          · exact TurnFrame.writeInIdle rfl
          · exact TurnFrame.refl s
  | strap st => exact ⟨rfl, rfl, rfl, rfl, fun _ => rfl, rfl, rfl, rfl, rfl, rfl, rfl, rfl⟩
  | reset => exact ⟨rfl, rfl, rfl, rfl, fun _ => rfl, rfl, rfl, rfl, rfl, rfl, rfl, rfl⟩
  | rxErr => exact ⟨rfl, rfl, rfl, rfl, fun _ => rfl, rfl, rfl, rfl, rfl, rfl, rfl, rfl⟩
  | rx d => exact ⟨rfl, rfl, rfl, rfl, fun _ => rfl, rfl, rfl, rfl, rfl, rfl, rfl, rfl⟩
  | tick => exact ⟨rfl, rfl, rfl, rfl, fun _ => rfl, rfl, rfl, rfl, rfl, rfl, rfl, rfl⟩
  | srcWrite offset byte => exact ⟨rfl, rfl, rfl, rfl, fun _ => rfl, rfl, rfl, rfl, rfl, rfl, rfl, rfl⟩

/-- The actions of a turn. -/
theorem TurnFrame.applyActs (acts : List PortAct) (s : State) : TurnFrame s (applyActs acts s) := by
  induction acts generalizing s with
  | nil => exact TurnFrame.refl s
  | cons a rest ih => exact (TurnFrame.applyAct s a).trans (ih _)

/-- The environment's turn. -/
theorem takeTurn_frame (s : State) : TurnFrame s (takeTurn s) := by
  unfold takeTurn
  split
  · exact TurnFrame.refl s
  · rename_i acts rest _
    have h : TurnFrame s (s.setIo { s.io with script := rest }) :=
      ⟨rfl, rfl, rfl, rfl, fun _ => rfl, rfl, rfl, rfl, rfl, rfl, rfl, rfl⟩
    exact h.trans (TurnFrame.applyActs acts _)

/-- What the arbiter can answer (R322): the pending request of highest priority, or nothing when none is pending. -/
theorem arbitrate_cases (io : Ports) :
    (io.resetReq = true ∧ arbitrate io = some .reset) ∨
    (io.resetReq = false ∧ io.rxErr = true ∧ arbitrate io = some .rxErr) ∨
    (io.resetReq = false ∧ io.rxErr = false ∧ ∃ d rest, io.rx = d :: rest ∧ arbitrate io = some (.rx d)) ∨
    (io.resetReq = false ∧ io.rxErr = false ∧ io.rx = [] ∧ io.start ≠ 0 ∧ arbitrate io = some .start) ∨
    (io.resetReq = false ∧ io.rxErr = false ∧ io.rx = [] ∧ io.start = 0 ∧ io.ticks ≠ 0 ∧
      arbitrate io = some .tick) ∨
    (io.resetReq = false ∧ io.rxErr = false ∧ io.rx = [] ∧ io.start = 0 ∧ io.ticks = 0 ∧ arbitrate io = none) := by
  unfold arbitrate
  cases hr : io.resetReq <;> cases he : io.rxErr <;> cases hx : io.rx <;> by_cases hs : io.start = 0 <;>
    by_cases ht : io.ticks = 0 <;> simp [hs, ht]

/-- After the request of the event the arbiter chose is cleared, neither a reset nor a receive failure stands (R321). -/
theorem clearRequest_arbitrated {io : Ports} {e : Event} (h : arbitrate io = some e) :
    (clearRequest e io).resetReq = false ∧ (clearRequest e io).rxErr = false := by
  rcases arbitrate_cases io with ⟨-, g⟩ | ⟨hr, -, g⟩ | ⟨hr, he, _, _, -, g⟩ | ⟨hr, he, -, -, g⟩ |
    ⟨hr, he, -, -, -, g⟩ | ⟨-, -, -, -, -, g⟩ <;> rw [g] at h <;> cases h <;> simp [clearRequest, *]

/-- Clearing a request changes nothing of the block and nothing it produces. -/
theorem served_frame (e : Event) (s : State) : TurnFrame s (served e s) := by
  have h : TurnFrame (takeTurn s) (served e s) := by
    cases e <;> exact ⟨rfl, rfl, rfl, rfl, fun _ => rfl, rfl, rfl, rfl, rfl, rfl, rfl, rfl⟩
  exact (takeTurn_frame s).trans h

end Sys2Proof.Machine
end

