-- ==== Sys2Proof/Tests/Slice0.lean ====
section
/-! SUPPORT. Tests on fixed values: well-formedness, decoding of words written out from the tables of
spec/30_encoding.md, one step on small states (expected values from spec/95_test_vectors.md), and for every statement
with hypotheses a state and operands that meet them all. -/

namespace Sys2Proof.Tests

open Sys2Proof.Machine

/-! ### Small states -/

/-- Small parameters: two slots, chunks of four bytes, `MAX_SEQ` 100. -/
def tiny : Params := { Params.default with maxPayload := 4, chunk := 4, maxSeq := 100, nSlots := 2 }

/-- A machine of a role just after reset, with small parameters. -/
def fresh (r : Role) : State := State.resetWith ⟨r, tiny⟩ (Ports.quiet ⟨r, tiny⟩)

/-- A slot with an open stream. -/
def openSlot0 : Slot where
  inUse := true
  connId := 1
  peerAddr := 7
  seq := 40
  ack := 10
  finObserved := false
  sinkOpen := true
  lastActivity := 0

/-- A slot that has observed a FIN. -/
def closingSlot0 : Slot := { openSlot0 with finObserved := true, sinkOpen := false }

/-- A responder with this slot 0, the second slot free, at time 5, answering a datagram of peer 9. -/
def responder (x : Slot) : State :=
  { fresh .responder with now := 5, slots := [x, Slot.free], rxp := { PacketReg.zero with peer := 9 } }

/-- A responder whose two slots are both in use. -/
def fullResponder : State :=
  { responder openSlot0 with slots := [openSlot0, { openSlot0 with connId := 2 }] }

/-- An initiator in this state at time 600, with a source of six bytes and this offset outstanding. -/
def initiator (cs : ConnState) (off : Word32) : State :=
  { fresh .initiator with
    now := 600
    c :=
      { Conn.zero with
        state := cs, connId := 3, peerAddr := 8, localSeq := 25, peerAckExpected := 8, srcLen := 6
        lastActivity := 100 }
    p := { valid := cs.sending, seq := 25, ack := 8, sendTime := 100, sourceOffset := off } }

/-- The next `Tx` answers these in turn, then success. -/
def withTx (l : List TxResult) (s : State) : State := s.setIo { s.io with txResults := { front := l, rest := .ok } }

/-- A datagram of peer 9 waits at the RX port. -/
def withRx (d : List Byte) (s : State) : State := s.setIo { s.io with rx := [{ bytes := d, peer := 9 }] }

/-- Some request is pending and nothing of higher priority. -/
def withPorts (reset rxErr : Bool) (start ticks : Nat) (s : State) : State :=
  s.setIo { s.io with resetReq := reset, rxErr := rxErr, start := start, ticks := ticks }

/-- The next state an outcome gives; the given state where it gives none. -/
def after (s : State) (o : Host.Outcome State Fault Refusal) : State :=
  match o with
  | .next t => t
  | .fault _ => s
  | .refused _ => s

/-- Does an outcome give a next state? -/
def runs (o : Host.Outcome State Fault Refusal) : Bool :=
  match o with
  | .next _ => true
  | .fault _ => false
  | .refused _ => false

/-- An outcome that gives a next state gives the one `after` reads. -/
theorem runs_next (s : State) (o : Host.Outcome State Fault Refusal) (h : runs o = true) : o = .next (after s o) := by
  cases o with
  | next t => rfl
  | fault f => cases f
  | refused r => cases h

/-! ### Well-formedness: one ill-formed term for each check -/

theorem test_default_params_wf : Params.default.Wf := by decide
theorem test_tiny_params_wf : tiny.Wf := by decide
theorem test_refuses_no_slot : ¬ ({ tiny with nSlots := 0 } : Params).Wf := by decide
theorem test_refuses_too_many_slots : ¬ ({ tiny with nSlots := 65536 } : Params).Wf := by decide
theorem test_refuses_empty_payload : ¬ ({ tiny with maxPayload := 0, chunk := 0 } : Params).Wf := by decide
theorem test_refuses_payload_of_sequence_space : ¬ ({ tiny with maxSeq := 4 } : Params).Wf := by decide
theorem test_refuses_wide_sequence_space : ¬ ({ tiny with maxSeq := 4294967297 } : Params).Wf := by decide
theorem test_refuses_round_not_below_abort : ¬ ({ tiny with tRoundMs := 10000 } : Params).Wf := by decide
theorem test_refuses_chunk_not_payload : ¬ ({ tiny with chunk := 3 } : Params).Wf := by decide
theorem test_refuses_wide_transfer : ¬ ({ tiny with maxXfer := 4294967296 } : Params).Wf := by decide
theorem test_refuses_no_tick : ¬ ({ tiny with tickMs := 0 } : Params).Wf := by decide
theorem test_refuses_narrow_clock : ¬ ({ tiny with nowW := 14 } : Params).Wf := by decide
theorem test_refuses_fin_reply_flags : ¬ ({ tiny with rspFinFlags := 4 } : Params).Wf := by decide
theorem test_refuses_other_header_length : ¬ ({ tiny with hdrLen := 14 } : Params).Wf := by decide
theorem test_refuses_two_bit_flag : ¬ ({ tiny with flagSyn := 10 } : Params).Wf := by decide
theorem test_refuses_shared_flag_bit : ¬ ({ tiny with flagSyn := 4 } : Params).Wf := by decide
/-- Other flag bits than the defaults are a parameter choice (R5, U1). -/
theorem test_accepts_other_flag_bits :
    ({ tiny with flagFin := 8, flagSyn := 16, flagAck := 32, rspFinFlags := 40 } : Params).Wf := by decide
theorem test_refuses_long_payload : ¬ (Instr.data 1 2 3 [0, 0, 0, 0, 0]).Wf 4 := by decide
theorem test_accepts_full_payload : (Instr.data 1 2 3 [0, 0, 0, 0]).Wf 4 := by decide

/-! ### Decoding of words written out from R101 and R106 (V20 to V27; the worked headers of R144 to R149) -/

/-- V22 and V26: DATA with four payload bytes. -/
theorem test_decode_data :
    decode Params.default [0x00, 0x00, 0x63, 0xFF, 0x00, 0x00, 0x00, 0x00, 0x00, 0x14, 0x00, 0x00, 0xDE, 0xAD, 0xBE, 0xEF] =
      .ok (.data 25599 0 20 [0xDE, 0xAD, 0xBE, 0xEF]) := by decide
theorem test_decode_fin :
    decode Params.default [0x00, 0x00, 0x08, 0xFD, 0x00, 0x00, 0x00, 0x00, 0x00, 0x01, 0x00, 0x01] = .ok (.fin 2301 0 1 []) := by
  decide
theorem test_decode_syn :
    decode Params.default [0x00, 0x00, 0x03, 0xE8, 0x00, 0x00, 0x00, 0x00, 0x00, 0x00, 0x00, 0x02] = .ok (.syn 1000 0 0 []) := by
  decide
/-- V21 and V25. -/
theorem test_decode_ack :
    decode Params.default [0x00, 0x00, 0x00, 0x01, 0x00, 0x00, 0x00, 0x02, 0x00, 0x03, 0x00, 0x04] = .ok (.ack 1 2 3 []) := by decide
/-- V20: each byte position. -/
theorem test_decode_finack :
    decode Params.default [0x12, 0x34, 0x56, 0x78, 0x9A, 0xBC, 0xDE, 0xF0, 0x13, 0x57, 0x00, 0x05] =
      .ok (.finack 0x12345678 0x9ABCDEF0 0x1357 []) := by decide
theorem test_decode_synack :
    decode Params.default [0x00, 0x00, 0x0F, 0xA0, 0x00, 0x00, 0x03, 0xE9, 0x00, 0x01, 0x00, 0x06] =
      .ok (.synack 4000 1001 1 []) := by decide
/-- V20: `ENCODE` writes the bytes the table gives. -/
theorem test_encode_finack :
    encode Params.default (.finack 0x12345678 0x9ABCDEF0 0x1357 []) =
      [0x12, 0x34, 0x56, 0x78, 0x9A, 0xBC, 0xDE, 0xF0, 0x13, 0x57, 0x00, 0x05] := by decide
/-- V24: eleven bytes. -/
theorem test_decode_refuses_short :
    decode Params.default [0x00, 0x00, 0x03, 0xE8, 0x00, 0x00, 0x00, 0x00, 0x00, 0x00, 0x00] = .error .truncatedHeader := by decide
/-- The classification row of 0x0104: the ACK bit does not make it an ACK. -/
theorem test_decode_refuses_reserved :
    decode Params.default [0, 0, 0, 0, 0, 0, 0, 0, 0, 0, 0x01, 0x04] = .error (.reservedFlags 0x0104) := by decide

/-- With other flag bits the combined values follow: FIN and ACK together are a FINACK, and 5 is reserved. -/
theorem test_decode_follows_flag_parameters :
    let q : Params := { tiny with flagFin := 8, flagSyn := 16, flagAck := 32, rspFinFlags := 40 }
    decode q [0, 0, 0, 1, 0, 0, 0, 2, 0, 3, 0, 40] = .ok (.finack 1 2 3 []) ∧
    decode q [0, 0, 0, 1, 0, 0, 0, 2, 0, 3, 0, 5] = .error (.reservedFlags 5) := by decide

/-- The header words of the opcode table, fields zero, and one with every field set (V20). -/
theorem test_table_words :
    decodeTableWord 96 0x000000000000000000000000 = some (.data 0 0 0 []) ∧
    decodeTableWord 96 0x000000000000000000000001 = some (.fin 0 0 0 []) ∧
    decodeTableWord 96 0x000000000000000000000002 = some (.syn 0 0 0 []) ∧
    decodeTableWord 96 0x000000000000000000000004 = some (.ack 0 0 0 []) ∧
    decodeTableWord 96 0x000000000000000000000005 = some (.finack 0 0 0 []) ∧
    decodeTableWord 96 0x000000000000000000000006 = some (.synack 0 0 0 []) ∧
    decodeTableWord 96 0x000000000000000000000003 = none ∧
    decodeTableWord 96 0x123456789ABCDEF013570005 = some (.finack 0x12345678 0x9ABCDEF0 0x1357 []) := by decide

/-- Each row's word runs as the first instruction after reset. -/
theorem test_step_runs_every_row :
    runs (step (State.reset.withFetchWord 96 0)) = true ∧ runs (step (State.reset.withFetchWord 96 1)) = true ∧
    runs (step (State.reset.withFetchWord 96 2)) = true ∧ runs (step (State.reset.withFetchWord 96 4)) = true ∧
    runs (step (State.reset.withFetchWord 96 5)) = true ∧ runs (step (State.reset.withFetchWord 96 6)) = true := by
  decide

/-- The header word of V80 after reset: the SYN's `ack` and id are ignored, and slot 0 holds what V80 shows. -/
theorem test_step_first_syn :
    (after State.reset (step (State.reset.withFetchWord 96 0x000063FF0000004D00090002))).slot 0 =
      { inUse := true, connId := 1, peerAddr := 0, seq := 0, ack := 0, finObserved := false, sinkOpen := true
        lastActivity := 0 } := by decide

/-! ### One step from the rows of spec/95_test_vectors.md -/

/-- The responder of the run V80 to V94: three slots, this slot 0, time 5, the draws 25599 then 100, peer A being 1. -/
def responderV (x : Slot) : State :=
  { State.resetWith ⟨.responder, { Params.default with nSlots := 3 }⟩
      (Ports.quiet ⟨.responder, { Params.default with nSlots := 3 }⟩) with
    now := 5, slots := [x, Slot.free, Slot.free], rxp := { PacketReg.zero with peer := 1 } }

/-- Slot 0 of that run. -/
def slotV (seq ack : Word32) (fin : Bool) : Slot :=
  { inUse := true, connId := 1, peerAddr := 1, seq := seq, ack := ack, finObserved := fin, sinkOpen := !fin
    lastActivity := 0 }

/-- V81: in-order DATA. -/
theorem test_v81_data :
    let t := after State.reset (exec (.data 0 0 1 [0x61, 0x62, 0x63]) (responderV (slotV 25599 0 false)))
    t.slot 0 =
      { inUse := true, connId := 1, peerAddr := 1, seq := 0, ack := 3, finObserved := false, sinkOpen := true
        lastActivity := 5 } ∧
    t.io.trace =
      [.sinkWrite 1 [0x61, 0x62, 0x63], .sinkFlush 1,
        .tx [0x00, 0x00, 0x00, 0x00, 0x00, 0x00, 0x00, 0x03, 0x00, 0x01, 0x00, 0x04] 1] := by decide
/-- V86: DATA with id 4, above `N_SLOTS`. -/
theorem test_v86_data_miss :
    (after State.reset (exec (.data 0 0 4 []) (responderV (slotV 0 5 false)))).sticky = 8 := by decide
/-- V92: the ACK that completes the teardown frees the slot. -/
theorem test_v92_ack_frees :
    let t := after State.reset (exec (.ack 6 1 1 []) (responderV (slotV 0 6 true)))
    t.slot 0 = Slot.free ∧ t.io.trace = [] := by decide
/-- V89: a FIN out of order. -/
theorem test_v89_fin :
    let t := after State.reset (exec (.fin 99 0 1 []) (responderV (slotV 0 5 false)))
    (t.slot 0).ack = 5 ∧ (t.slot 0).finObserved = true ∧ (t.slot 0).sinkOpen = false ∧
    t.io.trace =
      [.tx [0x00, 0x00, 0x00, 0x00, 0x00, 0x00, 0x00, 0x05, 0x00, 0x01, 0x00, 0x04] 1,
        .tx [0x00, 0x00, 0x00, 0x00, 0x00, 0x00, 0x00, 0x05, 0x00, 0x01, 0x00, 0x05] 1, .sinkClose 1] := by decide
/-- V93: the freed slot is allocated again with the draw 100. -/
theorem test_v93_syn :
    let s := responderV Slot.free
    let t := after State.reset
      (exec (.syn 1 0 0 []) (s.setIo { s.io with draws := { front := [100], rest := 0 } }))
    (t.slot 0).seq = 100 ∧ (t.slot 0).ack = 2 ∧
    t.io.trace =
      [.sinkOpen 1, .tx [0x00, 0x00, 0x00, 0x64, 0x00, 0x00, 0x00, 0x02, 0x00, 0x01, 0x00, 0x06] 1] := by decide

/-- The initiator of the run V50 to V63 in this state, at this time. -/
def initiatorV (cs : ConnState) (now : Nat) (ls srcLen off : Word32) : State :=
  { State.resetWith ⟨.initiator, Params.default⟩ (Ports.quiet ⟨.initiator, Params.default⟩) with
    now := now
    c :=
      { Conn.zero with
        state := cs, connId := 3, localSeq := ls, peerAckExpected := 8, srcLen := srcLen, lingerStart := 700 }
    p := { valid := cs.sending, seq := ls, ack := 8, sendTime := 0, sourceOffset := off } }

/-- V57: the last chunk is acknowledged and the FIN goes out. -/
theorem test_v57_ack :
    let t := after State.reset (exec (.ack 0 425 3 []) (initiatorV .established 600 25513 1024 512))
    t.c.state = .finSent ∧ t.c.localSeq = 425 ∧ t.c.lastActivity = 600 ∧
    t.p = { valid := true, seq := 425, ack := 0, sendTime := 600, sourceOffset := 1024 } ∧
    t.io.trace = [.tx [0x00, 0x00, 0x01, 0xA9, 0x00, 0x00, 0x00, 0x00, 0x00, 0x03, 0x00, 0x01] 0] := by decide
/-- V59: a bare FIN in FIN_SENT, whatever its `ack`. -/
theorem test_v59_fin :
    let t := after State.reset (exec (.fin 24 9999 3 []) (initiatorV .finSent 700 425 1024 1024))
    t.c.state = .linger ∧ t.c.lingerStart = 700 ∧ t.p.valid = false ∧ t.c.localSeq = 425 ∧
    t.io.trace = [.tx [0x00, 0x00, 0x01, 0xAA, 0x00, 0x00, 0x00, 0x19, 0x00, 0x03, 0x00, 0x04] 0] := by decide
/-- V60: a FINACK in LINGER. -/
theorem test_v60_finack :
    let t := after State.reset (exec (.finack 25599 426 3 []) (initiatorV .linger 900 425 1024 1024))
    t.c.state = .linger ∧ t.c.lingerStart = 700 ∧
    t.io.trace = [.tx [0x00, 0x00, 0x01, 0xAA, 0x00, 0x00, 0x00, 0x00, 0x00, 0x03, 0x00, 0x04] 0] := by decide
/-- V58: a FINACK in FIN_SENT with the wrong `ack`. -/
theorem test_v58_finack_mismatch :
    let t := after State.reset (exec (.finack 24 425 3 []) (initiatorV .finSent 600 425 1024 1024))
    t.c.state = .finSent ∧ t.c.lastActivity = 600 ∧ t.io.trace = [] := by decide
/-- V66: a SYNACK at the top of the sequence space, with a source of one byte (0x78). -/
theorem test_v66_synack :
    let s := initiatorV .synSent 0 25599 1 0
    let t := after State.reset (exec (.synack 0 0 1 []) (s.setIo { s.io with src := [(0, 0x78)] }))
    t.c.state = .established ∧ t.c.localSeq = 0 ∧ t.c.peerAckExpected = 1 ∧ t.c.connId = 1 ∧
    t.io.trace =
      [.srcRead 0 1, .tx [0x00, 0x00, 0x00, 0x00, 0x00, 0x00, 0x00, 0x01, 0x00, 0x01, 0x00, 0x00, 0x78] 0] := by
  decide
/-- V65: a SYNACK that acknowledges 25600 is rejected. -/
theorem test_v65_synack_rejected :
    let t := after State.reset (exec (.synack 0 25600 1 []) (initiatorV .synSent 0 25599 1 0))
    t.c.state = .synSent ∧ t.io.trace = [] := by decide
/-- V100: the registers just after reset. -/
theorem test_v100_reset_registers :
    hostRead State.reset 1 = 0x00140001 ∧ hostRead State.reset 2 = 0 ∧ hostRead State.reset 3 = 0 ∧
    hostRead State.reset 0x100 = 0 ∧ hostRead State.reset 0x0B = 0 := by decide
/-- V103: the registers of slot 0 after V81. -/
theorem test_v103_slot_registers :
    let t := after State.reset (exec (.data 0 0 1 [0x61, 0x62, 0x63]) (responderV (slotV 25599 0 false)))
    hostRead t 0x100 = 0x00010005 ∧ hostRead t 0x101 = 0 ∧ hostRead t 0x102 = 3 := by decide

/-! ### Witnesses: for every statement with hypotheses, a state and operands that meet them -/

/-- A packet of exactly `MAX_PAYLOAD` bytes, datagrams of 12 and of `12 + MAX_PAYLOAD` bytes, and equal encodings. -/
theorem witness_CodecRoundTripsBothWays :
    let k : Packet := { seq := 1, ack := 2, connId := 3, flags := 7, payload := [1, 2, 3, 4] }
    tiny.Wf ∧ k.payload.length ≤ tiny.maxPayload ∧ tiny.hdrLen ≤ (packetBytes k).length ∧
    (packetBytes k).length ≤ tiny.hdrLen + tiny.maxPayload ∧ tiny.hdrLen ≤ ((packetBytes k).take 12).length ∧
    ((packetBytes k).take 12).length ≤ tiny.hdrLen + tiny.maxPayload ∧
    encodePacket tiny.maxPayload k = some (packetBytes k) ∧ decodePacket tiny (packetBytes k) = some k := by decide
theorem witness_DecodeEncodeAgreeOnInstructions :
    tiny.Wf ∧ (Instr.ack 1 2 3 [5, 6, 7, 8]).Wf tiny.maxPayload ∧
    decode tiny (encode tiny (.ack 1 2 3 [5])) = .ok (.ack 1 2 3 [5]) := by decide
/-- Eleven, twelve and thirteen bytes. -/
theorem witness_DecodeReadsBigEndianFields :
    tiny.Wf ∧ decodePacket tiny [0, 0, 0, 0, 0, 0, 0, 0, 0, 0, 0] = none ∧
    (decodePacket tiny [1, 0, 0, 2, 0, 0, 0, 3, 0, 4, 0, 5]).isSome = true ∧
    (decodePacket tiny [1, 0, 0, 2, 0, 0, 0, 3, 0, 4, 0, 5, 6]).isSome = true := by decide
/-- One packet for each clause, the reserved value next to listed ones, and well-formed parameters with other bits. -/
theorem witness_ClassificationIsByEqualityOfFlags :
    let p := fun f : Word16 => ({ seq := 0, ack := 0, connId := 0, flags := f, payload := [] } : Packet)
    let q : Params := { tiny with flagFin := 8, flagSyn := 16, flagAck := 32, rspFinFlags := 40 }
    (tiny.flagFin = 1 ∧ tiny.flagSyn = 2 ∧ tiny.flagAck = 4) ∧
    (p 0).flags = 0 ∧ (p 1).flags = 1 ∧ (p 2).flags = 2 ∧ (p 4).flags = 4 ∧ (p 5).flags = 5 ∧ (p 6).flags = 6 ∧
    ((p 3).flags ≠ 0 ∧ (p 3).flags ≠ 1 ∧ (p 3).flags ≠ 2 ∧ (p 3).flags ≠ 4 ∧ (p 3).flags ≠ 5 ∧ (p 3).flags ≠ 6) ∧
    q.Wf ∧ kindOf q 40 = .finack ∧ kindOf q 48 = .synack := by decide
/-- A payload one byte too long; and a step of a well-formed machine with the bit clear. -/
theorem witness_EncodeRefusalSetsEncLenAndIsUnreachable :
    let s := initiator .established 4
    s.params.maxPayload < [0, 0, 0, 0, 0].length ∧ s.params.Wf ∧ runs (step (withPorts false false 0 1 s)) = true ∧
    (withPorts false false 0 1 s).stickyBit .encLen = false := by decide
theorem witness_AddSeqIsNaturalSumModulo : Params.default.Wf ∧ tiny.Wf := by decide

theorem witness_DataAndAckAtOpenSlot :
    let s := responder openSlot0
    s.role = .responder ∧ lookupSlot s 1 = some 0 ∧ (s.slot 0).finObserved = false ∧ txOutcome s = .ok := by decide
/-- In order and out of order, with a reply that succeeds and one that fails. -/
theorem witness_SinkReceivesInOrderPayloadOnly :
    let s := responder openSlot0
    let f := withTx [.fail] s
    (s.role = .responder ∧ lookupSlot s 1 = some 0 ∧ (s.slot 0).finObserved = false ∧
      runs (exec (.data 10 40 1 [1]) s) = true ∧ runs (exec (.ack 10 40 1 [1]) s) = true ∧
      runs (exec (.data 9 40 1 [1]) s) = true ∧ runs (exec (.ack 9 40 1 [1]) s) = true) ∧
    (f.role = .responder ∧ lookupSlot f 1 = some 0 ∧ (f.slot 0).finObserved = false ∧
      runs (exec (.data 10 40 1 [1]) f) = true ∧ runs (exec (.ack 10 40 1 [1]) f) = true) := by decide
theorem witness_DataAndAckAtClosingSlot :
    let s := responder closingSlot0
    s.role = .responder ∧ lookupSlot s 1 = some 0 ∧ (s.slot 0).finObserved = true := by decide
/-- Id 0, the id of a free slot, and an id above the table. -/
theorem witness_LookupMissDropsPacket :
    let s := responder openSlot0
    s.role = .responder ∧ (∀ x ∈ s.slots, x.inUse = true → x.connId ≠ 0) ∧
    (∀ x ∈ s.slots, x.inUse = true → x.connId ≠ 2) ∧ (∀ x ∈ s.slots, x.inUse = true → x.connId ≠ 3) := by decide
/-- A free slot, and an expired one whose old sink is open. -/
theorem witness_SynAllocatesSlotAndReplies :
    let s := responder openSlot0
    let e := { fullResponder with now := 10000 }
    (s.role = .responder ∧ findCandidate s = some 1 ∧ txOutcome s = .ok) ∧
    (e.role = .responder ∧ findCandidate e = some 0 ∧ txOutcome e = .ok ∧ (e.slot 0).inUse = true) := by decide
/-- One tick before the slots expire. -/
theorem witness_SynWithFullTableIsDropped :
    let s := { fullResponder with now := 9999 }
    s.role = .responder ∧
    ∀ x ∈ s.slots, x.inUse = true ∧ elapsed s.params s.now x.lastActivity < inactTicks s.params := by decide
theorem witness_IdTranslatesToSlotBelow :
    let s := responder openSlot0
    s.params.Wf ∧ TableInv s ∧ lookupSlot s 1 = some 0 := by decide
theorem witness_FinAnsweredTwiceAndMarked :
    let s := responder openSlot0
    s.role = .responder ∧ lookupSlot s 1 = some 0 ∧ txOutcome s = .ok ∧ s.io.txResults.tail.head = .ok := by decide
theorem witness_FailedAckReplyAbortsSlot :
    let s := withTx [.fail] (responder openSlot0)
    s.role = .responder ∧ lookupSlot s 1 = some 0 ∧ (s.slot 0).finObserved = false ∧ txOutcome s = .fail := by decide
theorem witness_FailedSynackOrFinReplyAbortsSlot :
    let s := withTx [.fail] (responder openSlot0)
    let u := withTx [.ok, .fail] (responder openSlot0)
    (s.role = .responder ∧ findCandidate s = some 1 ∧ txOutcome s = .fail) ∧
    (lookupSlot s 1 = some 0 ∧ txOutcome s = .fail) ∧
    (u.role = .responder ∧ lookupSlot u 1 = some 0 ∧ txOutcome u = .ok ∧ u.io.txResults.tail.head = .fail) := by
  decide
theorem witness_ResponderDropsSynackAndFinack : (responder openSlot0).role = .responder := by decide
/-- A FIN, a DATA, a DATA that finds no slot, and a SYN that reclaims a slot and whose `Tx` fails. -/
theorem witness_ResponderEventBounds :
    let s := responder openSlot0
    let e := withTx [.fail] { fullResponder with now := 10000 }
    s.role = .responder ∧ runs (exec (.fin 10 0 1 []) s) = true ∧ runs (exec (.data 10 40 1 [1]) s) = true ∧
    servedSlot (.data 10 40 1 [1]) s = some 0 ∧ servedSlot (.data 10 40 2 [1]) s = none ∧
    instrIsSyn (.data 10 40 1 [1]) = false ∧ txOutcome s = .ok ∧
    (e.role = .responder ∧ runs (exec (.syn 1 0 0 []) e) = true ∧ servedSlot (.syn 1 0 0 []) e = some 0 ∧
      txOutcome e = .fail) := by decide

/-- A source of six bytes, and an empty one. -/
theorem witness_SynackEstablishesAndSends :
    let s := initiator .synSent 0
    let e := s.setC { s.c with srcLen := 0 }
    (s.role = .initiator ∧ s.c.state = .synSent ∧ s.params.Wf ∧ txOutcome s = .ok ∧
      (26 : Word32) = addSeq s.params s.c.localSeq 1 ∧ s.c.srcLen ≠ 0) ∧
    (e.role = .initiator ∧ e.c.state = .synSent ∧ e.params.Wf ∧ txOutcome e = .ok ∧
      (26 : Word32) = addSeq e.params e.c.localSeq 1 ∧ e.c.srcLen = 0) := by decide
/-- The first chunk of two, and the last. -/
theorem witness_ExpectedAckAdvances :
    let s := initiator .established 0
    let e := initiator .established 4
    (s.role = .initiator ∧ s.c.state = .established ∧ s.params.Wf ∧ txOutcome s = .ok ∧
      (29 : Word32) = addSeq s.params s.c.localSeq (chunkLen s) ∧ nextOffset s ≠ s.c.srcLen) ∧
    (e.role = .initiator ∧ e.c.state = .established ∧ e.params.Wf ∧ txOutcome e = .ok ∧
      (27 : Word32) = addSeq e.params e.c.localSeq (chunkLen e) ∧ nextOffset e = e.c.srcLen) := by decide
theorem witness_UnexpectedAckResendsChunk :
    let s := initiator .established 0
    s.role = .initiator ∧ s.c.state = .established ∧ s.params.Wf ∧ txOutcome s = .ok ∧
    (25 : Word32) ≠ addSeq s.params s.c.localSeq (chunkLen s) := by decide
theorem witness_PeerFinOpensLinger :
    let s := initiator .finSent 6
    s.role = .initiator ∧ s.c.state = .finSent ∧ txOutcome s = .ok ∧
    (26 : Word32) = addSeq s.params s.c.localSeq 1 := by decide
theorem witness_LingerAnswersPeerFin :
    let s := initiator .linger 6
    s.role = .initiator ∧ s.c.state = .linger ∧ txOutcome s = .ok ∧
    (26 : Word32) = addSeq s.params s.c.localSeq 1 := by decide
/-- For each clause: a SYNACK with the wrong `ack` and one outside SYN_SENT, an ACK outside ESTABLISHED, a FIN or FINACK
before FIN_SENT, and a FINACK that does not match. -/
theorem witness_InitiatorDropsUnexpectedKinds :
    let s := initiator .synSent 0
    let e := initiator .established 0
    let f := initiator .finSent 6
    (s.role = .initiator ∧ s.c.state.active = true ∧ (25 : Word32) ≠ addSeq s.params s.c.localSeq 1 ∧
      s.c.state ≠ .established ∧ s.c.state = .synSent) ∧
    (e.role = .initiator ∧ e.c.state.active = true ∧ e.c.state ≠ .synSent ∧ e.c.state = .established) ∧
    (f.role = .initiator ∧ f.c.state.active = true ∧ (25 : Word32) ≠ addSeq f.params f.c.localSeq 1) := by decide
/-- Each kind of event with a `Tx` that fails: a packet, the start, and the retransmission of a tick. -/
theorem witness_InitiatorTxFailureCloses :
    let s := withTx [.fail] (initiator .established 0)
    let i := withTx [.fail] (initiator .idle 0)
    s.role = .initiator ∧ txOutcome s = .fail ∧ runs (exec (.ack 0 29 3 []) s) = true ∧
    runs (exec (.ack 0 29 3 []) (withTx [.ok] s)) = true ∧
    (issuedOps s (after s (exec (.ack 0 29 3 []) s))).countP PortOp.isTx = 1 ∧
    (i.role = .initiator ∧ txOutcome i = .fail ∧ (issuedOps i (eventStart i)).countP PortOp.isTx = 1) ∧
    (issuedOps s (eventTick s)).countP PortOp.isTx = 1 := by decide
theorem witness_InitiatorIdleAndClosedIgnorePackets :
    ((initiator .idle 0).role = .initiator ∧ (initiator .idle 0).c.state = .idle) ∧
    ((initiator .closed 6).role = .initiator ∧ (initiator .closed 6).c.state = .closed) := by decide
/-- An ACK that acts, and for a SYNACK that is not accepted each of the two reasons. -/
theorem witness_InitiatorIgnoresIdAndSender :
    let s := initiator .established 0
    let u := initiator .synSent 0
    s.role = .initiator ∧ runs (exec (.ack 0 29 3 []) s) = true ∧ s.c.state ≠ .synSent ∧
    u.role = .initiator ∧ (25 : Word32) ≠ addSeq u.params u.c.localSeq 1 := by decide
/-- The clauses: not in IDLE, a source one byte above `MAX_XFER`, one of exactly `MAX_XFER`, and a failing `Tx`. -/
theorem witness_StartSendsSynOrRejectsOversize :
    let s := initiator .idle 0
    let big := s.setC { s.c with srcLen := 10485761 }
    let full := s.setC { s.c with srcLen := 10485760 }
    ((initiator .linger 0).c.state ≠ .idle) ∧
    (big.role = .initiator ∧ big.c.state = .idle ∧ big.params.maxXfer < big.c.srcLen.toNat) ∧
    (full.role = .initiator ∧ full.c.state = .idle ∧ full.c.srcLen.toNat ≤ full.params.maxXfer ∧
      txOutcome full = .ok ∧ txOutcome (withTx [.fail] full) = .fail) := by decide
theorem witness_ReceiveErrorByRole :
    ((initiator .linger 6).role = .initiator ∧ (initiator .linger 6).c.state.active = true) ∧
    ((initiator .closed 6).role = .initiator ∧ (initiator .closed 6).c.state.active = false) ∧
    (responder openSlot0).role = .responder := by decide

/-- The counter has passed the start, and has wrapped. -/
theorem witness_DeadlineExpiresAfterItsTicks :
    ((600 : Nat) < 2 ^ tiny.nowW ∧ (100 : Nat) < 2 ^ tiny.nowW ∧ (100 : Nat) ≤ 600) ∧
    ((3 : Nat) < 2 ^ tiny.nowW ∧ (2 ^ 64 - 5 : Nat) < 2 ^ tiny.nowW) := by decide
/-- Each deadline on its last tick, and one tick before it. -/
theorem witness_TickEvaluatesAbortLingerRound :
    let abort := { initiator .finSent 6 with now := 10099 }
    let linger := { initiator .linger 6 with now := 1999 }
    let early := { initiator .linger 6 with now := 1998 }
    let round := { initiator .established 0 with now := 599 }
    let wait := { initiator .established 0 with now := 598 }
    (abort.role = .initiator ∧ abort.c.state = .finSent ∧
      abortTicks abort.params ≤ elapsed abort.params (nextNow abort.params abort.now) abort.c.lastActivity) ∧
    (linger.c.state = .linger ∧
      lingerTicks linger.params ≤ elapsed linger.params (nextNow linger.params linger.now) linger.c.lingerStart) ∧
    (early.c.state = .linger ∧
      elapsed early.params (nextNow early.params early.now) early.c.lingerStart < lingerTicks early.params) ∧
    (abortRunning round = false ∧ round.c.state.sending = true ∧ round.p.valid = true ∧
      roundTicks round.params ≤ elapsed round.params (nextNow round.params round.now) round.p.sendTime) ∧
    (abortRunning wait = false ∧ wait.c.state.sending = true ∧ wait.p.valid = true ∧
      elapsed wait.params (nextNow wait.params wait.now) wait.p.sendTime < roundTicks wait.params) ∧
    (initiator .idle 0).c.state = .idle ∧ (responder openSlot0).role = .responder := by decide
theorem witness_RetransmissionIsIdentical :
    let s := initiator .established 4
    s.params.Wf ∧ (pendingPacket s).isSome = true ∧ txOutcome s = .ok := by decide
/-- The initiator right after its SYN, with the default parameters. -/
theorem witness_UnansweredSynIsResentThenAborts :
    let s := { initiatorV .synSent 0 5 10 0 with now := 0 }
    s.role = .initiator ∧ s.params = Params.default ∧ s.c.state = .synSent ∧ s.p.valid = true ∧
    s.p.sendTime = s.now ∧ s.c.lastActivity = s.now ∧ s.now + 10000 < 2 ^ 64 ∧
    s.io.txResults = { front := [], rest := .ok } := by decide

/-- A datagram of exactly `MAX_DGRAM` bytes, and one a byte longer. -/
theorem witness_StepRunsDecodedInstruction :
    let d : Datagram := { bytes := encode tiny (.data 10 40 1 [1, 2, 3, 4]), peer := 9 }
    let l : Datagram := { bytes := encode tiny (.data 10 40 1 [1, 2, 3, 4, 5]), peer := 9 }
    let s := withRx d.bytes (responder openSlot0)
    let u := withRx l.bytes (responder openSlot0)
    (arbitrate (takeTurn s).io = some (.rx d) ∧ discardsRx (takeTurn s) = false ∧
      decode (takeTurn s).params (d.bytes.take ((takeTurn s).params.hdrLen + (takeTurn s).params.maxPayload)) =
        .ok (.data 10 40 1 [1, 2, 3, 4])) ∧
    (arbitrate (takeTurn u).io = some (.rx l) ∧ discardsRx (takeTurn u) = false ∧
      decode (takeTurn u).params (l.bytes.take ((takeTurn u).params.hdrLen + (takeTurn u).params.maxPayload)) =
        .ok (.data 10 40 1 [1, 2, 3, 4])) := by decide
/-- A discarded datagram, eleven bytes, a reserved kind at an active initiator and at a responder, and one that is oversize
as well. -/
theorem witness_StepDropsWhatIsNotExecuted :
    let short : List Byte := [0, 0, 0, 0, 0, 0, 0, 0, 0, 0, 0]
    let rsvd : List Byte := [0, 0, 0, 0, 0, 0, 0, 0, 0, 0, 0, 3]
    let big : List Byte := [0, 0, 0, 0, 0, 0, 0, 0, 0, 0, 0, 3, 1, 2, 3, 4, 5]
    (arbitrate (takeTurn (withRx short (initiator .closed 6))).io = some (.rx { bytes := short, peer := 9 }) ∧
      (takeTurn (withRx short (initiator .closed 6))).role = .initiator ∧
      (takeTurn (withRx short (initiator .closed 6))).c.state = .closed) ∧
    (arbitrate (takeTurn (withRx short (responder openSlot0))).io = some (.rx { bytes := short, peer := 9 }) ∧
      (takeTurn (withRx short (responder openSlot0))).role = .responder ∧ short.length < tiny.hdrLen) ∧
    (arbitrate (takeTurn (withRx rsvd (initiator .linger 6))).io = some (.rx { bytes := rsvd, peer := 9 }) ∧
      (takeTurn (withRx rsvd (initiator .linger 6))).c.state.active = true ∧
      (decodePacket tiny (rsvd.take (12 + 4))).map (fun k => kindOf tiny k.flags) = some .rsvd) ∧
    (arbitrate (takeTurn (withRx big (responder openSlot0))).io = some (.rx { bytes := big, peer := 9 }) ∧
      (takeTurn (withRx big (responder openSlot0))).role = .responder ∧ tiny.hdrLen + tiny.maxPayload < big.length ∧
      (decodePacket tiny (big.take (12 + 4))).map (fun k => kindOf tiny k.flags) = some .rsvd) := by decide
/-- One state for each priority. -/
theorem witness_StepServesByPriority :
    let s := initiator .linger 6
    (takeTurn (withPorts true true 1 1 s)).io.resetReq = true ∧
    ((takeTurn (withPorts false true 1 1 s)).io.resetReq = false ∧ (takeTurn (withPorts false true 1 1 s)).io.rxErr = true) ∧
    ((takeTurn (withRx [] (withPorts false false 1 1 s))).io.rxErr = false ∧
      (takeTurn (withRx [] (withPorts false false 1 1 s))).io.rx = [{ bytes := [], peer := 9 }]) ∧
    ((takeTurn (withPorts false false 1 1 s)).io.rx = [] ∧ (takeTurn (withPorts false false 1 1 s)).io.start ≠ 0) ∧
    ((takeTurn (withPorts false false 0 1 s)).io.start = 0 ∧ (takeTurn (withPorts false false 0 1 s)).io.ticks ≠ 0) ∧
    (takeTurn (withPorts false false 0 0 s)).io.ticks = 0 := by decide
/-- A turn with one action of each kind that raises a request, outside IDLE and in it. -/
theorem witness_TurnHoldsEveryRequest :
    let acts : List PortAct :=
      [.tick, .tick, .rxErr, .rx { bytes := [], peer := 9 }, .hostWrite 0 1, .hostWrite 4 7, .reset]
    let u := (initiator .synSent 0).setIo { (initiator .synSent 0).io with script := [acts, []] }
    let v := (initiator .idle 0).setIo { (initiator .idle 0).io with script := [acts, []] }
    (u.io.script = acts :: [[]] ∧ u.c.state ≠ .idle ∧ (takeTurn u).io.ticks = 2) ∧
    (v.io.script = acts :: [[]] ∧ v.c.state = .idle ∧ (takeTurn v).c.srcLen = 7) := by decide
/-- The clauses: both values of bit 0, a state other than IDLE, IDLE with 48-bit addresses. -/
theorem witness_HostWritesActOnlyWhereAllowed :
    (1 : Word32).getLsbD 0 = true ∧ (2 : Word32).getLsbD 0 = false ∧ (initiator .synSent 0).c.state ≠ .idle ∧
    (initiator .idle 0).c.state = .idle ∧ 48 ≤ (initiator .idle 0).params.peerAddrW := by decide
/-- The first and the last slot of the table, and the first index above it. -/
theorem witness_HostReadsRegisterMap :
    let s := responder openSlot0
    s.params.nSlots < 2 ^ 16 ∧ (0 : Nat) < s.params.nSlots ∧ (1 : Nat) < s.params.nSlots ∧ s.params.nSlots ≤ 2 := by
  decide

/-- A datagram at a closed initiator. -/
theorem witness_ClosedIsTerminal :
    let s := withRx (encode tiny (.ack 0 29 3 [])) (initiator .closed 6)
    s.role = .initiator ∧ s.c.state = .closed ∧ runs (step s) = true ∧
    arbitrate (takeTurn s).io ≠ some .reset := by decide
/-- Each role with a datagram waiting. -/
theorem witness_UnselectedEngineIsInert :
    let s := withRx (encode tiny (.ack 0 29 3 [])) (initiator .established 0)
    let u := withRx (encode tiny (.data 10 40 1 [1])) (responder openSlot0)
    (runs (step s) = true ∧ arbitrate (takeTurn s).io ≠ some .reset ∧ s.role = .initiator) ∧
    (runs (step u) = true ∧ arbitrate (takeTurn u).io ≠ some .reset ∧ u.role = .responder) := by decide
theorem witness_StickyBitsStayUntilReset :
    let s := (withRx (encode tiny (.data 10 40 1 [1])) (responder openSlot0)).setSticky 1
    runs (step s) = true ∧ arbitrate (takeTurn s).io ≠ some .reset ∧ s.stickyBit .malformed = true := by decide
/-- Two states that differ in a stored peer address. -/
theorem witness_StoredPeerAddressIsNeverRead :
    let s := responder openSlot0
    let s' := responder { openSlot0 with peerAddr := 11 }
    s ≠ s' ∧ hideSlotPeers s = hideSlotPeers s' ∧ runs (exec (.data 10 40 1 [1]) s) = true ∧
    runs (exec (.data 10 40 1 [1]) s') = true := by decide

/-- An established initiator and a responder with an open slot, each with a datagram that makes it act. -/
theorem witness_StepKeepsInitiatorInvariant :
    let s := withRx (encode tiny (.ack 0 29 3 [])) (initiator .established 0)
    EnvWf s ∧ InitiatorInv s ∧ runs (step s) = true ∧ (after s (step s)).p.sourceOffset = 4 := by
  refine ⟨?_, ?_, ?_, ?_⟩ <;> decide
theorem witness_StepKeepsTableInvariant :
    let s := withRx (encode tiny (.data 10 40 1 [1])) (responder openSlot0)
    EnvWf s ∧ TableInv s ∧ runs (step s) = true ∧ ((after s (step s)).slot 0).ack = 11 := by
  refine ⟨?_, ?_, ?_, ?_⟩ <;> decide
theorem witness_StepKeepsRangesRolesAndMemoryForm :
    let s := withRx (encode tiny (.data 10 40 1 [1])) (responder openSlot0)
    EnvWf s ∧ RangeInv s ∧ (s.role = .initiator → ∀ x ∈ s.slots, x = Slot.free) ∧
    (s.role = .responder → s.c.state = .idle ∧ s.p = PendingSend.zero) ∧ Memory.wf s.io.src = true ∧
    runs (step s) = true := by
  refine ⟨?_, ?_, ?_, ?_, ?_, ?_⟩ <;> decide
/-- An initiator that sends a chunk, one that starts, and a responder that acknowledges. -/
theorem witness_OnlyLegalDatagramsAndReads :
    let s := withRx (encode tiny (.ack 0 29 3 [])) (initiator .established 0)
    let u := withRx (encode tiny (.data 10 40 1 [1])) (responder openSlot0)
    EnvWf s ∧ InitiatorInv s ∧ TableInv s ∧ runs (step s) = true ∧
    (issuedOps s (after s (step s))).length = 2 ∧
    EnvWf u ∧ InitiatorInv u ∧ TableInv u ∧ runs (step u) = true ∧
    (issuedOps u (after u (step u))).length = 3 := by
  refine ⟨?_, ?_, ?_, ?_, ?_, ?_, ?_, ?_, ?_, ?_⟩ <;> decide
theorem witness_SinksAreUsedInOrder :
    let s := withRx (encode tiny (.data 10 40 1 [1])) (responder openSlot0)
    EnvWf s ∧ TableInv s ∧ runs (step s) = true ∧ arbitrate (takeTurn s).io ≠ some .reset ∧
    (issuedOps s (after s (step s))).length = 3 := by
  refine ⟨?_, ?_, ?_, ?_, ?_⟩ <;> decide
/-- The highest address, beside a listed one. -/
theorem witness_SourceWriteThenRead :
    Memory.wf [(4, 1)] = true ∧ (2 ^ 32 - 1 : Nat) < 2 ^ 32 ∧ (4 : Nat) ≠ 2 ^ 32 - 1 := by decide
/-- The round deadline on its last tick, in ESTABLISHED and in SYN_SENT, one tick before the abort deadline there. -/
theorem witness_FailedRetransmissionAtTickCloses :
    let s := withTx [.fail] { initiator .established 0 with now := 599 }
    let u := withTx [.fail] { initiator .synSent 0 with now := 10098 }
    (s.role = .initiator ∧ s.params.Wf ∧ txOutcome s = .fail ∧ (pendingPacket s).isSome = true ∧ s.p.valid = true ∧
      roundTicks s.params ≤ elapsed s.params (nextNow s.params s.now) s.p.sendTime ∧
      s.c.state = .established ∧ s.params.abortInEstablished = false) ∧
    (u.role = .initiator ∧ u.params.Wf ∧ txOutcome u = .fail ∧ (pendingPacket u).isSome = true ∧ u.p.valid = true ∧
      roundTicks u.params ≤ elapsed u.params (nextNow u.params u.now) u.p.sendTime ∧
      elapsed u.params (nextNow u.params u.now) u.c.lastActivity < abortTicks u.params) := by decide
/-- A reset that overtakes a receive failure, a start and a tick; and each of the three that are pended. -/
theorem witness_StepPendsOnlyDatagramsStartsAndTicks :
    let s := initiator .linger 6
    (runs (step (withPorts true true 1 1 s)) = true ∧
      arbitrate (takeTurn (withPorts true true 1 1 s)).io = some .reset) ∧
    (runs (step (withRx [] (withPorts false false 1 1 s))) = true ∧
      arbitrate (takeTurn (withRx [] (withPorts false false 1 1 s))).io = some (.rx { bytes := [], peer := 9 })) ∧
    arbitrate (takeTurn (withPorts false false 1 1 s)).io = some .start ∧
    arbitrate (takeTurn (withPorts false false 0 1 s)).io = some .tick := by decide
/-- A chunk sent by an initiator, and an acknowledgment sent by a responder. -/
theorem witness_TransmittedFieldsFollowTable :
    let s := withRx (encode tiny (.ack 0 29 3 [])) (initiator .established 0)
    let u := withRx (encode tiny (.data 10 40 1 [1])) (responder openSlot0)
    EnvWf s ∧ InitiatorInv s ∧ TableInv s ∧ runs (step s) = true ∧
    PortOp.tx [0, 0, 0, 29, 0, 0, 0, 8, 0, 3, 0, 0, 0, 0] 8 ∈ issuedOps s (after s (step s)) ∧
    EnvWf u ∧ InitiatorInv u ∧ TableInv u ∧ runs (step u) = true ∧
    PortOp.tx [0, 0, 0, 40, 0, 0, 0, 11, 0, 1, 0, 4] 9 ∈ issuedOps u (after u (step u)) := by
  refine ⟨?_, ?_, ?_, ?_, ?_, ?_, ?_, ?_, ?_, ?_⟩ <;> decide

end Sys2Proof.Tests
end

section
/-! The machine never stops (R10): an arriving packet, its execution, and hence every step answer a next state. -/

namespace Sys2Proof.Machine

/-- The arrival of a packet never faults and is never refused, whichever engine is selected and in whatever state. -/
theorem arrive_has_next (atInitiator atResponder : State → State) (s : State) :
    ∃ t, arrive atInitiator atResponder s = .next t := by
  cases hr : s.role with
  | responder => exact ⟨_, arrive_responder hr⟩
  | initiator =>
    cases ha : s.c.state.active with
    | true => exact ⟨_, arrive_initiator_active hr ha⟩
    | false => exact ⟨_, arrive_initiator_inactive hr ha⟩

/-- Every instruction has a meaning in every state: each is an arrival. -/
theorem exec_has_next (i : Instr) (s : State) : ∃ t, exec i s = .next t := by
  cases i with
  | data => exact arrive_has_next _ _ s
  | fin => exact arrive_has_next _ _ s
  | syn => exact arrive_has_next _ _ s
  | ack => exact arrive_has_next _ _ s
  | finack => exact arrive_has_next _ _ s
  | synack => exact arrive_has_next _ _ s

/-- Settles O43 (R10): a fetched event is complete or hands over an instruction, and every instruction has a next
state. -/
theorem everyStepHasNextState : Obligations.EveryStepHasNextState := by
  intro s
  unfold step
  cases fetchEvent s with
  | done t => exact ⟨t, rfl⟩
  | run i t => exact exec_has_next i t

end Sys2Proof.Machine
end

section
/-! What one event of the spec's R9 can do to the state, said once. `Move` lists the single changes a step is made of
(R162 to R254, R321), and a frame for each engine says what its changes leave alone. The invariants and the
noninterference statements are each proved of a `Move`. -/

namespace Sys2Proof.Machine

/-! ### Frames -/

/-- `STICKY` has only gained bits, and only among the eight that R55 names. -/
def StickyGrows (v w : Word32) : Prop := ∃ m : BitVec 8, w = v ||| m.setWidth 32

/-- Setting no bit. -/
theorem StickyGrows.refl (v : Word32) : StickyGrows v v := ⟨0, by simp⟩

/-- Gaining bits twice. -/
theorem StickyGrows.trans {u v w : Word32} (h : StickyGrows u v) (g : StickyGrows v w) : StickyGrows u w := by
  obtain ⟨m, rfl⟩ := h
  obtain ⟨n, rfl⟩ := g
  exact ⟨m ||| n, by rw [BitVec.setWidth_or, BitVec.or_assoc]⟩

/-- Setting one named bit (R55). -/
theorem StickyGrows.stickyWith (b : StickyBit) (v : Word32) : StickyGrows v (stickyWith b v) := by
  refine ⟨BitVec.twoPow 8 b.index, ?_⟩
  unfold Sys2Proof.Machine.stickyWith
  congr 1
  cases b <;> decide

/-- A bit that was 1 is still 1. -/
theorem StickyGrows.getLsbD {v w : Word32} (h : StickyGrows v w) {n : Nat} (hn : v.getLsbD n = true) :
    w.getLsbD n = true := by
  obtain ⟨m, rfl⟩ := h
  simp [hn]

/-- The reserved bits stay 0 (R55). -/
theorem StickyGrows.toNat_lt {v w : Word32} (h : StickyGrows v w) (hv : v.toNat < 2 ^ 8) : w.toNat < 2 ^ 8 := by
  obtain ⟨m, rfl⟩ := h
  rw [BitVec.toNat_or]
  refine Nat.or_lt_two_pow hv ?_
  rw [BitVec.toNat_setWidth]
  exact lt_of_le_of_lt (Nat.mod_le _ _) m.isLt

/-- What every event but a reset leaves: the straps (R352), and of the ports what only the environment writes. Of the
block's own registers it keeps `now` and `RXP`, which change only before the engine acts (R50, R133). -/
structure EventFrame (s t : State) : Prop where
  straps : t.straps = s.straps
  now : t.now = s.now
  rxp : t.rxp = s.rxp
  sticky : StickyGrows s.sticky t.sticky
  pins : t.io.strap = s.io.strap
  script : t.io.script = s.io.script
  src : t.io.src = s.io.src

/-- A state is related to itself. -/
theorem EventFrame.refl (s : State) : EventFrame s s := ⟨rfl, rfl, rfl, .refl _, rfl, rfl, rfl⟩

/-- Two changes in a row. -/
theorem EventFrame.trans {s t u : State} (h : EventFrame s t) (g : EventFrame t u) : EventFrame s u :=
  ⟨g.straps.trans h.straps, g.now.trans h.now, g.rxp.trans h.rxp, h.sticky.trans g.sticky, g.pins.trans h.pins,
    g.script.trans h.script, g.src.trans h.src⟩

/-- The parameters are among the straps. -/
theorem EventFrame.params {s t : State} (h : EventFrame s t) : t.params = s.params := by
  rw [State.params_eq, h.straps, State.params_eq]

/-- What an operation at the ports leaves: both records and the table as well (R284, R287 to R292). -/
structure OutputFrame (s t : State) : Prop extends EventFrame s t where
  c : t.c = s.c
  p : t.p = s.p
  slots : t.slots = s.slots

/-- A state is related to itself. -/
theorem OutputFrame.refl (s : State) : OutputFrame s s := ⟨.refl s, rfl, rfl, rfl⟩

/-- Two operations in a row. -/
theorem OutputFrame.trans {s t u : State} (h : OutputFrame s t) (g : OutputFrame t u) : OutputFrame s u :=
  ⟨h.toEventFrame.trans g.toEventFrame, g.c.trans h.c, g.p.trans h.p, g.slots.trans h.slots⟩

/-- An operation that is issued under a condition. -/
theorem OutputFrame.ite {s t : State} (h : OutputFrame s t) (c : Prop) [Decidable c] :
    OutputFrame s (if c then t else s) := by
  split
  · exact h
  · exact .refl s

/-- An operation recorded in the trace (R82). -/
theorem emit_output (o : PortOp) (s : State) : OutputFrame s (emit o s) :=
  ⟨⟨rfl, rfl, rfl, .refl _, rfl, rfl, rfl⟩, rfl, rfl, rfl⟩

/-- A draw (R292). -/
theorem takeDraw_output (s : State) : OutputFrame s (takeDraw s) :=
  ⟨⟨rfl, rfl, rfl, .refl _, rfl, rfl, rfl⟩, rfl, rfl, rfl⟩

/-- A sticky bit set (R55). -/
theorem raiseSticky_output (b : StickyBit) (s : State) : OutputFrame s (raiseSticky b s) :=
  ⟨⟨rfl, rfl, rfl, .stickyWith b _, rfl, rfl, rfl⟩, rfl, rfl, rfl⟩

/-- `Tx(ENCODE(k), dest)`, whatever it answers (R284, R333). -/
theorem transmit_output (k : Packet) (dest : Nat) (s : State) : OutputFrame s (transmit k dest s).2 := by
  unfold transmit
  split
  · exact ⟨⟨rfl, rfl, rfl, .stickyWith _ _, rfl, rfl, rfl⟩, rfl, rfl, rfl⟩
  · exact ⟨⟨rfl, rfl, rfl, .refl _, rfl, rfl, rfl⟩, rfl, rfl, rfl⟩

/-- The source read of a transmission (R184, R287). -/
theorem noteSrcRead_output (s : State) : OutputFrame s (noteSrcRead s) := by
  unfold noteSrcRead
  split
  · exact emit_output _ s
  · exact .refl s

/-! ### The initiator's changes -/

/-- What a change of the initiator leaves: the table, the peer address, and every time stamp but those it takes anew
from `now` (R164, R166, R169). -/
structure InitiatorFrame (s t : State) : Prop extends EventFrame s t where
  slots : t.slots = s.slots
  peerAddr : t.c.peerAddr = s.c.peerAddr
  lastActivity : t.c.lastActivity = s.c.lastActivity ∨ t.c.lastActivity = s.now
  lingerStart : t.c.lingerStart = s.c.lingerStart ∨ t.c.lingerStart = s.now
  sendTime : t.p.sendTime = s.p.sendTime ∨ t.p.sendTime = s.now

/-- An operation at the ports is such a change. -/
theorem OutputFrame.toInitiator {s t : State} (h : OutputFrame s t) : InitiatorFrame s t :=
  ⟨h.toEventFrame, h.slots, by rw [h.c], .inl (by rw [h.c]), .inl (by rw [h.c]), .inl (by rw [h.p])⟩

/-- A state is related to itself. -/
theorem InitiatorFrame.refl (s : State) : InitiatorFrame s s :=
  ⟨.refl s, rfl, rfl, .inl rfl, .inl rfl, .inl rfl⟩

/-- A stamp kept or renewed twice, while `now` stands. -/
theorem stamp_trans {a b c m n : Nat} (h : b = a ∨ b = n) (g : c = b ∨ c = m) (hn : m = n) : c = a ∨ c = n := by
  subst hn
  exact g.elim (fun e => e ▸ h) .inr

/-- Two changes in a row. -/
theorem InitiatorFrame.trans {s t u : State} (h : InitiatorFrame s t) (g : InitiatorFrame t u) :
    InitiatorFrame s u :=
  ⟨h.toEventFrame.trans g.toEventFrame, g.slots.trans h.slots, g.peerAddr.trans h.peerAddr,
    stamp_trans h.lastActivity g.lastActivity h.now, stamp_trans h.lingerStart g.lingerStart h.now,
    stamp_trans h.sendTime g.sendTime h.now⟩

/-- A write of `C` that keeps the peer address and takes its stamps from `now`. -/
theorem setC_frame {c : Conn} {s : State} (ha : c.peerAddr = s.c.peerAddr)
    (hl : c.lastActivity = s.c.lastActivity ∨ c.lastActivity = s.now)
    (hg : c.lingerStart = s.c.lingerStart ∨ c.lingerStart = s.now) : InitiatorFrame s (s.setC c) :=
  ⟨⟨rfl, rfl, rfl, .refl _, rfl, rfl, rfl⟩, rfl, ha, hl, hg, .inl rfl⟩

/-- A write of `P` that takes its stamp from `now`. -/
theorem setP_frame {p : PendingSend} {s : State} (h : p.sendTime = s.p.sendTime ∨ p.sendTime = s.now) :
    InitiatorFrame s (s.setP p) :=
  ⟨⟨rfl, rfl, rfl, .refl _, rfl, rfl, rfl⟩, rfl, rfl, .inl rfl, .inl rfl, h⟩

/-- `close(res)` (R205). -/
theorem closeConn_frame (r : Result) (s : State) : InitiatorFrame s (closeConn r s) :=
  ⟨⟨rfl, rfl, rfl, .refl _, rfl, rfl, rfl⟩, rfl, rfl, .inl rfl, .inl rfl, .inl rfl⟩

/-- A new outstanding packet (R186, R190). -/
theorem armPending_frame (ack off : Word32) (s : State) : InitiatorFrame s (armPending ack off s) :=
  setP_frame (.inr rfl)

/-- `tx_or_die` (R204). -/
theorem txOrDie_frame (k : Packet) (s : State) : InitiatorFrame s (txOrDie k s) := by
  have f := (transmit_output k s.c.peerAddr s).toInitiator
  unfold txOrDie
  split
  · rename_i t h; rw [h] at f; exact f
  · rename_i t h; rw [h] at f; exact f.trans (closeConn_frame _ t)

/-- Sending the outstanding packet (R184). -/
theorem sendPending_frame (s : State) : InitiatorFrame s (sendPending s) := by
  unfold sendPending
  split
  · exact .refl s
  · exact (noteSrcRead_output s).toInitiator.trans (txOrDie_frame _ _)

/-- Sending it once more (R169). -/
theorem resendPending_frame (s : State) : InitiatorFrame s (resendPending s) :=
  (setP_frame (.inr rfl)).trans (sendPending_frame _)

/-- `send_next(off)` (R190). -/
theorem sendNext_frame (off : Word32) (s : State) : InitiatorFrame s (sendNext off s) := by
  rcases sendNext_cases off s with ⟨-, h⟩ | ⟨-, h⟩ <;> rw [h]
  · refine .trans ?_ (sendPending_frame _)
    refine .trans ?_ (armPending_frame _ _ _)
    exact setC_frame rfl (.inr rfl) (.inl rfl)
  · exact (armPending_frame _ _ _).trans (sendPending_frame _)

/-- `E_START` in IDLE (R186). -/
theorem startTransfer_frame (s : State) : InitiatorFrame s (startTransfer s) := by
  unfold startTransfer
  split
  · exact closeConn_frame _ s
  · refine .trans ?_ (sendPending_frame _)
    refine .trans ?_ (armPending_frame _ _ _)
    exact (takeDraw_output s).toInitiator.trans (setC_frame rfl (.inr rfl) (.inl rfl))

/-- A SYNACK (R188, R189). -/
theorem initiatorSynack_frame (seq ack : Word32) (id : Word16) (s : State) :
    InitiatorFrame s (initiatorSynack seq ack id s) := by
  unfold initiatorSynack
  split
  · split
    · refine .trans ?_ (sendNext_frame _ _)
      exact setC_frame rfl (.inl rfl) (.inl rfl)
    · exact .refl s
  all_goals exact .refl s

/-- An ACK (R191, R192). -/
theorem initiatorAck_frame (ack : Word32) (s : State) : InitiatorFrame s (initiatorAck ack s) := by
  unfold initiatorAck
  split
  · split
    · refine .trans ?_ (sendNext_frame _ _)
      exact setC_frame rfl (.inl rfl) (.inl rfl)
    · exact resendPending_frame s
  all_goals exact .refl s

/-- A FIN or FINACK (R197, R198, R200). -/
theorem initiatorFin_frame (kind : Kind) (seq ack : Word32) (s : State) :
    InitiatorFrame s (initiatorFin kind seq ack s) := by
  unfold initiatorFin
  split
  · split
    · refine .trans ?_ (txOrDie_frame _ _)
      refine .trans ?_ (setC_frame rfl (.inl rfl) (.inr rfl))
      exact setP_frame (.inl rfl)
    · exact .refl s
  · split
    · exact txOrDie_frame _ s
    · exact .refl s
  all_goals exact .refl s

/-- The deadlines of a tick (R168). -/
theorem evalDeadlines_frame (s : State) : InitiatorFrame s (evalDeadlines s) := by
  rcases evalDeadlines_cases s with ⟨-, h⟩ | ⟨-, -, h⟩ | ⟨-, -, -, h⟩ | ⟨-, -, -, h⟩ <;> rw [h]
  · exact closeConn_frame _ s
  · exact closeConn_frame _ s
  · exact resendPending_frame s
  · exact .refl s

/-! ### The responder's changes -/

/-- What a change of the responder leaves: both records of the initiator (R52). -/
structure ResponderFrame (s t : State) : Prop extends EventFrame s t where
  c : t.c = s.c
  p : t.p = s.p

/-- An operation at the ports is such a change. -/
theorem OutputFrame.toResponder {s t : State} (h : OutputFrame s t) : ResponderFrame s t :=
  ⟨h.toEventFrame, h.c, h.p⟩

/-- A change of the responder whose whole effect on the table is that slot `i` now holds `x`. -/
structure SlotWritten (i : Nat) (x : Slot) (s t : State) : Prop extends ResponderFrame s t where
  slots : t.slots = s.slots.set i x

/-- The last of two writes of a slot stands. -/
theorem SlotWritten.trans {i : Nat} {x y : Slot} {s t u : State} (h : SlotWritten i x s t)
    (g : SlotWritten i y t u) : SlotWritten i y s u :=
  ⟨⟨h.toEventFrame.trans g.toEventFrame, g.c.trans h.c, g.p.trans h.p⟩,
    by rw [g.slots, h.slots, List.set_set]⟩

/-- The slot written reads as it was written. -/
theorem SlotWritten.slot {i : Nat} {x : Slot} {s t : State} (h : SlotWritten i x s t) (hi : i < s.slots.length) :
    t.slot i = x := by
  simp [State.slot, h.slots, hi]

/-- A write of one slot. -/
theorem setSlot_written (i : Nat) (x : Slot) (s : State) : SlotWritten i x s (s.setSlot i x) :=
  ⟨⟨⟨rfl, rfl, rfl, .refl _, rfl, rfl, rfl⟩, rfl, rfl⟩, rfl⟩

/-- An operation at the ports writes what the slot holds. -/
theorem OutputFrame.toWritten {s t : State} (h : OutputFrame s t) (i : Nat) : SlotWritten i (s.slot i) s t := by
  refine ⟨h.toResponder, ?_⟩
  have e := congrArg State.slots (State.setSlot_slot_self s i)
  rw [State.setSlot_slots] at e
  rw [h.slots, e]

/-- A write of one slot after operations at the ports. -/
theorem OutputFrame.setSlot_written {s t : State} (h : OutputFrame s t) (i : Nat) (x : Slot) :
    SlotWritten i x s (t.setSlot i x) :=
  (h.toWritten i).trans (Sys2Proof.Machine.setSlot_written i x t)

/-- Operations at the ports after a write of one slot. -/
theorem SlotWritten.output {i : Nat} {x : Slot} {s t u : State} (h : SlotWritten i x s t) (g : OutputFrame t u) :
    SlotWritten i x s u :=
  ⟨⟨h.toEventFrame.trans g.toEventFrame, g.c.trans h.c, g.p.trans h.p⟩, g.slots.trans h.slots⟩

/-- `close_sink(i)` (R246). -/
theorem closeSink_written (i : Nat) (s : State) :
    SlotWritten i { s.slot i with sinkOpen := false } s (closeSink i s) := by
  rw [closeSink_eq]
  exact ((emit_output _ s).ite _).setSlot_written i _

/-- `abort_slot(i)` (R247). -/
theorem abortSlot_written (i : Nat) (s : State) : SlotWritten i Slot.free s (abortSlot i s) := by
  have freed := (closeSink_written i s).trans (setSlot_written i Slot.free _)
  exact freed.output (raiseSticky_output _ _)

/-- A reply that succeeds leaves the table, one that fails frees its slot (R247). -/
theorem replyTx_cases (i : Nat) (k : Packet) (s : State) :
    (∃ t, replyTx i k s = (.ok, t) ∧ SlotWritten i (s.slot i) s t) ∨
    (∃ t, replyTx i k s = (.fail, t) ∧ SlotWritten i Slot.free s t) := by
  have f := (transmit_output k s.rxp.peer s).toWritten i
  unfold replyTx
  split
  · rename_i t h; rw [h] at f; exact .inl ⟨t, rfl, f⟩
  · rename_i t h; rw [h] at f; exact .inr ⟨_, rfl, f.trans (abortSlot_written i t)⟩

/-- A reply that succeeds leaves the slot. -/
theorem replyTx_ok_written {i : Nat} {k : Packet} {s t : State} (h : replyTx i k s = (.ok, t)) :
    SlotWritten i (s.slot i) s t := by
  rcases replyTx_cases i k s with ⟨u, e, f⟩ | ⟨u, e, f⟩ <;> rw [h] at e <;> cases e
  exact f

/-- A reply that fails frees the slot (R247). -/
theorem replyTx_fail_written {i : Nat} {k : Packet} {s t : State} (h : replyTx i k s = (.fail, t)) :
    SlotWritten i Slot.free s t := by
  rcases replyTx_cases i k s with ⟨u, e, f⟩ | ⟨u, e, f⟩ <;> rw [h] at e <;> cases e
  exact f

/-- The state after a reply, whichever way it went. -/
theorem replyTx_written (i : Nat) (k : Packet) (s : State) :
    SlotWritten i (s.slot i) s (replyTx i k s).2 ∨ SlotWritten i Slot.free s (replyTx i k s).2 :=
  (replyTx_cases i k s).imp (fun ⟨t, h, f⟩ => by rw [h]; exact f) (fun ⟨t, h, f⟩ => by rw [h]; exact f)

/-- The activity stamp (R249). -/
theorem stampSlot_written (i : Nat) (s : State) :
    SlotWritten i { s.slot i with lastActivity := s.now } s (stampSlot i s) := setSlot_written _ _ _

/-- Delivery (R239, R240). -/
theorem deliver_written (i : Nat) (seq : Word32) (b : List Byte) (s : State) :
    SlotWritten i
      { s.slot i with
        ack := if seq = (s.slot i).ack then addSeq s.params (s.slot i).ack b.length else (s.slot i).ack }
      s (deliver i seq b s) := by
  rw [deliver_eq]
  exact (((emit_output _ s).trans (emit_output _ _)).ite _).setSlot_written i _

/-- Reconciliation (R241). -/
theorem reconcile_written (i : Nat) (ack : Word32) (s : State) :
    SlotWritten i
      { s.slot i with
        seq :=
          if ack ≠ (s.slot i).seq ∧ ack = addSeq s.params (s.slot i).seq 1 then addSeq s.params (s.slot i).seq 1
          else (s.slot i).seq }
      s (reconcile i ack s) := by
  rw [reconcile_eq]
  exact setSlot_written _ _ _

/-- The advance of a FIN (R243). -/
theorem advanceFin_written (i : Nat) (seq : Word32) (s : State) :
    SlotWritten i
      { s.slot i with ack := if seq = (s.slot i).ack then addSeq s.params (s.slot i).ack 1 else (s.slot i).ack }
      s (advanceFin i seq s) := by
  rw [advanceFin_eq]
  exact setSlot_written _ _ _

/-- The mark of a slot that has observed a FIN (R245). -/
theorem markFin_written {i : Nat} {s : State} (hi : i < s.slots.length) :
    SlotWritten i { s.slot i with finObserved := true, sinkOpen := false } s (markFin i s) := by
  have mark := setSlot_written i { s.slot i with finObserved := true } s
  have close := closeSink_written i (s.setSlot i { s.slot i with finObserved := true })
  rw [mark.slot hi] at close
  exact mark.trans close

/-- A sequence number is kept, or advanced by `add_seq` (R140). -/
def KeptOrAdvanced (q : Params) (a b : Word32) : Prop := b = a ∨ ∃ n, b = addSeq q a n

/-- A conditional advance. -/
theorem keptOrAdvanced_ite (q : Params) (a : Word32) (n : Nat) (c : Prop) [Decidable c] :
    KeptOrAdvanced q a (if c then addSeq q a n else a) := by
  split
  · exact .inr ⟨n, rfl⟩
  · exact .inl rfl

/-- What a packet's event can leave in the slot `i` it serves (R234 to R247). -/
inductive SlotEvent (s : State) (i : Nat) : Slot → Prop
  /-- a failed reply, or an ACK that completes the teardown -/
  | freed : SlotEvent s i Slot.free
  /-- a SYN -/
  | opened (seq : Word32) : SlotEvent s i (newSlot i seq s)
  /-- DATA after the FIN -/
  | closing (used : (s.slot i).inUse = true) (fin : (s.slot i).finObserved = true) :
      SlotEvent s i { s.slot i with lastActivity := s.now, sinkOpen := false }
  /-- DATA or ACK of an open stream -/
  | advanced (seq ack : Word32) (used : (s.slot i).inUse = true) (hseq : KeptOrAdvanced s.params (s.slot i).seq seq)
      (hack : KeptOrAdvanced s.params (s.slot i).ack ack) :
      SlotEvent s i { s.slot i with lastActivity := s.now, seq := seq, ack := ack }
  /-- a FIN -/
  | marked (ack : Word32) (used : (s.slot i).inUse = true) (hack : KeptOrAdvanced s.params (s.slot i).ack ack) :
      SlotEvent s i { s.slot i with lastActivity := s.now, ack := ack, finObserved := true, sinkOpen := false }

/-- A packet's event at the responder writes one slot of the table, as `SlotEvent` says, or none. -/
def TableEvent (s t : State) : Prop :=
  OutputFrame s t ∨ ∃ i x, i < s.slots.length ∧ SlotEvent s i x ∧ SlotWritten i x s t

/-- A SYN (R233 to R235). -/
theorem responderSyn_event (seq : Word32) (s : State) : TableEvent s (responderSyn seq s) := by
  unfold responderSyn
  cases hf : findCandidate s with
  | none => exact .inl (raiseSticky_output _ s)
  | some i =>
    obtain ⟨hi, -, -⟩ := findCandidate_some hf
    have opened : SlotWritten i (newSlot i seq s) s (openSlot i seq (reclaimSlot i s)) := by
      rw [openSlot_reclaimSlot_eq]
      have closed := (emit_output (.sinkClose (s.slot i).connId) s).ite ((s.slot i).inUse ∧ (s.slot i).sinkOpen)
      exact ((closed.trans (takeDraw_output _)).setSlot_written i _).output (emit_output _ _)
    refine .inr ⟨i, ?_⟩
    rcases replyTx_written i _ (openSlot i seq (reclaimSlot i s)) with replied | replied
    · rw [opened.slot hi] at replied
      exact ⟨_, hi, .opened seq, opened.trans replied⟩
    · exact ⟨_, hi, .freed, opened.trans replied⟩

/-- DATA or ACK (R236 to R242). -/
theorem responderData_event (pureAck : Bool) (seq ack : Word32) (id : Word16) (b : List Byte) (s : State) :
    TableEvent s (responderData pureAck seq ack id b s) := by
  unfold responderData
  cases hl : lookupSlot s id with
  | none => exact .inl (raiseSticky_output _ s)
  | some i =>
    obtain ⟨hi, hu, -⟩ := lookupSlot_some hl
    have stamped := stampSlot_written i s
    refine .inr ⟨i, ?_⟩
    dsimp only
    split
    · rename_i hfin
      have closed := closeSink_written i (stampSlot i s)
      rw [stamped.slot hi] at closed
      cases pureAck with
      | false => exact ⟨_, hi, .closing hu hfin, stamped.trans closed⟩
      | true => exact ⟨_, hi, .freed, (stamped.trans closed).trans (setSlot_written i Slot.free _)⟩
    · have delivered := deliver_written i seq b (stampSlot i s)
      rw [stamped.slot hi, stamped.params] at delivered
      have toDelivered := stamped.trans delivered
      have reconciled := reconcile_written i ack (deliver i seq b (stampSlot i s))
      rw [toDelivered.slot hi, toDelivered.params] at reconciled
      have toReconciled := toDelivered.trans reconciled
      rcases replyTx_written i _ (reconcile i ack (deliver i seq b (stampSlot i s))) with replied | replied
      · rw [toReconciled.slot hi] at replied
        exact ⟨_, hi, .advanced _ _ hu (keptOrAdvanced_ite _ _ _ _) (keptOrAdvanced_ite _ _ _ _),
          toReconciled.trans replied⟩
      · exact ⟨_, hi, .freed, toReconciled.trans replied⟩

/-- A FIN (R243 to R245). -/
theorem responderFin_event (seq : Word32) (id : Word16) (s : State) : TableEvent s (responderFin seq id s) := by
  unfold responderFin
  cases hl : lookupSlot s id with
  | none => exact .inl (raiseSticky_output _ s)
  | some i =>
    obtain ⟨hi, hu, -⟩ := lookupSlot_some hl
    have stamped := stampSlot_written i s
    have advanced := advanceFin_written i seq (stampSlot i s)
    rw [stamped.slot hi, stamped.params] at advanced
    have toAdvanced := stamped.trans advanced
    refine .inr ⟨i, ?_⟩
    dsimp only
    rcases answerFin_cases i (advanceFin i seq (stampSlot i s)) with
      ⟨t, ht, h⟩ | ⟨t, u, ht, hu', h⟩ | ⟨t, u, ht, hu', h⟩ <;> rw [h]
    · exact ⟨_, hi, .freed, toAdvanced.trans (replyTx_fail_written ht)⟩
    · exact ⟨_, hi, .freed, (toAdvanced.trans (replyTx_ok_written ht)).trans (replyTx_fail_written hu')⟩
    · have first := replyTx_ok_written ht
      rw [toAdvanced.slot hi] at first
      have toFirst := toAdvanced.trans first
      have second := replyTx_ok_written hu'
      rw [toFirst.slot hi] at second
      have toSecond := toFirst.trans second
      have hi' : i < u.slots.length := by rw [toSecond.slots, List.length_set]; exact hi
      have mark := markFin_written hi'
      rw [toSecond.slot hi] at mark
      exact ⟨_, hi, .marked _ hu (keptOrAdvanced_ite _ _ _ _), toSecond.trans mark⟩

end Sys2Proof.Machine
end

section
/-! A step as a run of moves. `step_keeps` packages the case analysis of a step once: what holds after the environment's
turn, is kept by every `Move` and, where the arbiter chose it, by the reset, holds after the step (R9, R321, R322). -/

namespace Sys2Proof.Machine

/-- What an event can do at the initiator (R166 to R208). -/
inductive InitiatorMove (s : State) : State → Prop
  /-- R166 -/
  | refreshed : InitiatorMove s (s.setC { s.c with lastActivity := s.now })
  /-- R208 -/
  | rxFailed (active : s.c.state.active = true) : InitiatorMove s (closeConn .errTransport s)
  /-- R186 -/
  | started (idle : s.c.state = .idle) : InitiatorMove s (startTransfer s)
  /-- R168 -/
  | evaluated : InitiatorMove s (evalDeadlines s)
  /-- R188, R189 -/
  | synack (seq ack : Word32) (connId : Word16) : InitiatorMove s (initiatorSynack seq ack connId s)
  /-- R191, R192 -/
  | ack (ack : Word32) : InitiatorMove s (initiatorAck ack s)
  /-- R197, R200 -/
  | fin (kind : Kind) (seq ack : Word32) : InitiatorMove s (initiatorFin kind seq ack s)

/-- The single changes an event other than a reset is made of. -/
inductive Move : State → State → Prop
  /-- the request of the event is cleared (R321) -/
  | cleared (e : Event) (s : State) : Move s (s.setIo (clearRequest e s.io))
  /-- a sticky bit is set (R55) -/
  | raised (b : StickyBit) (s : State) : Move s (raiseSticky b s)
  /-- `now` is incremented (R50) -/
  | counted (s : State) : Move s (countTick s)
  /-- a decoded packet enters `RXP` (R133) -/
  | loaded (k : Packet) (peer : Nat) (s : State) : Move s (loadRxp k peer s)
  /-- the initiator engine acts -/
  | initiator {s t : State} (role : s.role = .initiator) (acts : InitiatorMove s t) : Move s t
  /-- the responder engine acts -/
  | responder {s t : State} (role : s.role = .responder) (acts : TableEvent s t) : Move s t

/-- A change of the initiator has the initiator's frame. -/
theorem InitiatorMove.frame {s t : State} (h : InitiatorMove s t) : InitiatorFrame s t := by
  cases h with
  | refreshed => exact setC_frame rfl (.inr rfl) (.inl rfl)
  | rxFailed => exact closeConn_frame _ s
  | started => exact startTransfer_frame s
  | evaluated => exact evalDeadlines_frame s
  | synack => exact initiatorSynack_frame _ _ _ s
  | ack => exact initiatorAck_frame _ s
  | fin => exact initiatorFin_frame _ _ _ s

/-- A change of the responder has the responder's frame. -/
theorem TableEvent.frame {s t : State} (h : TableEvent s t) : ResponderFrame s t := by
  rcases h with h | ⟨i, x, -, -, h⟩
  · exact h.toResponder
  · exact h.toResponderFrame

/-! ### The moves of a step -/

open Relation (ReflTransGen)

/-- The truncation note of an oversize datagram (R282). -/
theorem noteTruncation_moves (d : Datagram) (s : State) : ReflTransGen Move s (noteTruncation d s) := by
  unfold noteTruncation
  split
  · exact .single (.raised _ s)
  · exact .refl

/-- A packet of a reserved kind (R150). -/
theorem receiveReserved_moves (s : State) : ReflTransGen Move s (receiveReserved s) := by
  refine .tail ?_ (.raised _ _)
  unfold refreshActivity
  split
  · rename_i hr; exact .single (.initiator hr .refreshed)
  · exact .refl

/-- The execution of a packet. -/
theorem exec_moves {i : Instr} {s t : State} (h : exec i s = .next t) : ReflTransGen Move s t := by
  cases hr : s.role with
  | responder =>
    refine .single ?_
    rcases exec_responder_cases hr h with ⟨_, _, _, _, _, rfl⟩ | ⟨_, rfl⟩ | ⟨_, _, rfl⟩ | rfl
    · exact .responder hr (responderData_event _ _ _ _ _ s)
    · exact .responder hr (responderSyn_event _ s)
    · exact .responder hr (responderFin_event _ _ s)
    · exact .raised _ s
  | initiator =>
    cases ha : s.c.state.active with
    | false =>
      rw [exec_initiator_inactive hr ha] at h
      cases h
      exact .refl
    | true =>
      obtain ⟨u, rfl, hu⟩ := exec_initiator_cases hr ha h
      refine .head (.initiator hr .refreshed) (.single ?_)
      rcases hu with rfl | ⟨_, _, _, rfl⟩ | ⟨_, rfl⟩ | ⟨_, _, _, rfl⟩
      · exact .raised _ _
      · exact .initiator hr (.synack _ _ _)
      · exact .initiator hr (.ack _)
      · exact .initiator hr (.fin _ _ _)

/-- `E_RXERR` (R208, R254). -/
theorem eventRxErr_moves (s : State) : ReflTransGen Move s (eventRxErr s) := by
  unfold eventRxErr
  split
  · rename_i hr
    split
    · rename_i ha; exact .single (.initiator hr (.rxFailed ha))
    · exact .refl
  · exact .single (.raised _ s)

/-- `E_START` (R186, R254). -/
theorem eventStart_moves (s : State) : ReflTransGen Move s (eventStart s) := by
  unfold eventStart
  split
  · rename_i hr
    split
    · rename_i hi; exact .single (.initiator hr (.started hi))
    · exact .refl
  · exact .refl

/-- `E_TICK` (R168, R170). -/
theorem eventTick_moves (s : State) : ReflTransGen Move s (eventTick s) := by
  unfold eventTick
  split
  · rename_i hr; exact .head (.counted s) (.single (.initiator hr .evaluated))
  · exact .single (.counted s)

/-- A step is the environment's turn and then either the reset or moves. -/
theorem step_moves {s t : State} (h : step s = .next t) :
    (arbitrate (takeTurn s).io = some .reset ∧ t = resetMachine (served .reset s)) ∨
      ReflTransGen Move (takeTurn s) t := by
  have clear : ∀ e, Move (takeTurn s) (served e s) := fun e => .cleared e _
  rcases step_cases h with ⟨-, rfl⟩ | hreset | ⟨-, rfl⟩ | ⟨-, rfl⟩ | ⟨-, rfl⟩ | ⟨d, -, hrx⟩
  · exact .inr .refl
  · exact .inl hreset
  · exact .inr (.head (clear _) (eventRxErr_moves _))
  · exact .inr (.head (clear _) (eventStart_moves _))
  · exact .inr (.head (clear _) (eventTick_moves _))
  · have note := noteTruncation_moves d (served (.rx d) s)
    refine .inr (.head (clear (.rx d)) ?_)
    rcases hrx with ⟨-, rfl⟩ | ⟨-, rfl⟩ | ⟨k, -, rfl⟩ | ⟨k, i, -, -, -, he⟩
    · exact note
    · exact note.tail (.raised _ _)
    · exact (note.tail (.loaded k d.peer _)).trans (receiveReserved_moves _)
    · exact (note.tail (.loaded k d.peer _)).trans (exec_moves he)

/-- What holds after the environment's turn and is kept by every move, and by the reset if that is served, holds after
the step. -/
theorem step_keeps {P : State → Prop} {s t : State} (h : step s = .next t) (turn : P (takeTurn s))
    (move : ∀ {u v}, Move u v → P u → P v)
    (reset : arbitrate (takeTurn s).io = some .reset → P (served .reset s) → P (resetMachine (served .reset s))) :
    P t := by
  rcases step_moves h with ⟨ha, rfl⟩ | hm
  · exact reset ha (move (.cleared .reset _) turn)
  · clear h
    induction hm with
    | refl => exact turn
    | tail _ m ih => exact move m ih

/-! ### What every move leaves -/

/-- The straps stay until a reset (R352). -/
theorem Move.straps {s t : State} (h : Move s t) : t.straps = s.straps := by
  cases h with
  | cleared | raised | counted | loaded => rfl
  | initiator _ h => exact h.frame.straps
  | responder _ h => exact h.frame.straps

/-- The parameters are among the straps. -/
theorem Move.params {s t : State} (h : Move s t) : t.params = s.params := by
  rw [State.params_eq, h.straps, State.params_eq]

/-- The role is among the straps. -/
theorem Move.role {s t : State} (h : Move s t) : t.role = s.role := by
  rw [State.role_eq, h.straps, State.role_eq]

/-- A sticky bit stays (R55). -/
theorem Move.sticky {s t : State} (h : Move s t) : StickyGrows s.sticky t.sticky := by
  cases h with
  | raised b => exact .stickyWith b _
  | cleared | counted | loaded => exact .refl _
  | initiator _ h => exact h.frame.sticky
  | responder _ h => exact h.frame.sticky

/-- What the environment holds at the ports is its own: no event moves the pins, the script or the source bytes. -/
theorem Move.environment {s t : State} (h : Move s t) :
    t.io.strap = s.io.strap ∧ t.io.script = s.io.script ∧ t.io.src = s.io.src := by
  cases h with
  | cleared e => cases e <;> exact ⟨rfl, rfl, rfl⟩
  | raised | counted | loaded => exact ⟨rfl, rfl, rfl⟩
  | initiator _ h => exact ⟨h.frame.pins, h.frame.script, h.frame.src⟩
  | responder _ h => exact ⟨h.frame.pins, h.frame.script, h.frame.src⟩

/-- At the initiator no slot changes (R52). -/
theorem Move.slots_of_initiator {s t : State} (h : Move s t) (hr : s.role = .initiator) : t.slots = s.slots := by
  cases h with
  | cleared | raised | counted | loaded => rfl
  | initiator _ h => exact h.frame.slots
  | responder hr' => rw [hr] at hr'; cases hr'

/-- At the responder neither record of the initiator changes (R52). -/
theorem Move.records_of_responder {s t : State} (h : Move s t) (hr : s.role = .responder) :
    t.c = s.c ∧ t.p = s.p := by
  cases h with
  | cleared | raised | counted | loaded => exact ⟨rfl, rfl⟩
  | initiator hr' => rw [hr] at hr'; cases hr'
  | responder _ h => exact ⟨h.frame.c, h.frame.p⟩

/-! ### The environment's turn -/

/-- What a host write can do (R53, R54, R56): nothing, one more `E_START`, or new values of the two fields of `C` that
are writable in IDLE, the address held to its width (log 5). -/
theorem hostWrite_cases (number : Nat) (v : Word32) (s : State) :
    hostWrite number v s = s ∨ hostWrite number v s = s.setIo { s.io with start := s.io.start + 1 } ∨
    (s.c.state = .idle ∧ ∃ n a, (a = s.c.peerAddr ∨ a < 2 ^ s.params.peerAddrW) ∧
      hostWrite number v s = s.setC { s.c with srcLen := n, peerAddr := a }) := by
  have width : ∀ a, peerAddrOf s.params a < 2 ^ s.params.peerAddrW := fun a => Nat.mod_lt _ (Nat.two_pow_pos _)
  by_cases hi : s.c.state = .idle
  · unfold hostWrite writeInIdle
    simp only [hi, if_true]
    split
    · split
      · exact .inr (.inl rfl)
      · exact .inl rfl
    · split
      · exact .inr (.inr ⟨trivial, _, _, .inl rfl, rfl⟩)
      · split
        · exact .inr (.inr ⟨trivial, _, _, .inr (width _), rfl⟩)
        · split
          · exact .inr (.inr ⟨trivial, _, _, .inr (width _), rfl⟩)
          · exact .inl rfl
  · unfold hostWrite writeInIdle
    simp only [hi, if_false, ite_self]
    split
    · split
      · exact .inr (.inl rfl)
      · exact .inl rfl
    · exact .inl rfl

/-- What holds with the turn's actions taken off the script and is kept by every legal action holds after the turn. -/
theorem takeTurn_keeps {P : State → Prop} {s : State} (hs : P s)
    (legal : ∀ acts ∈ s.io.script, ∀ a ∈ acts, a.legal = true)
    (taken : ∀ acts rest, s.io.script = acts :: rest → P (s.setIo { s.io with script := rest }))
    (act : ∀ {u a}, a.legal = true → P u → P (applyAct u a)) : P (takeTurn s) := by
  have run : ∀ acts u, (∀ a ∈ acts, a.legal = true) → P u → P (applyActs acts u) := by
    intro acts
    induction acts with
    | nil => exact fun _ _ hu => hu
    | cons a rest ih =>
      exact fun u ha hu => ih _ (fun b hb => ha b (.tail _ hb)) (act (ha a (.head _)) hu)
  unfold takeTurn
  split
  · exact hs
  · rename_i acts rest e
    exact run _ _ (legal _ (by rw [e]; exact .head _)) (taken _ _ e)

/-- The role stands through the environment's turn. -/
theorem takeTurn_role (s : State) : (takeTurn s).role = s.role := by
  rw [State.role_eq, (takeTurn_frame s).straps, State.role_eq]

/-- The parameters stand through the environment's turn. -/
theorem takeTurn_params (s : State) : (takeTurn s).params = s.params := by
  rw [State.params_eq, (takeTurn_frame s).straps, State.params_eq]

/-- A legal action of the environment leaves what it will do legal (R6). -/
theorem EnvWf.applyAct {s : State} {a : PortAct} (hs : EnvWf s) (ha : a.legal = true) : EnvWf (applyAct s a) := by
  obtain ⟨hp, hio, hscript⟩ := hs
  cases a with
  | strap st => exact ⟨hp, of_decide_eq_true ha, hscript⟩
  | hostWrite number v =>
    unfold Sys2Proof.Machine.applyAct
    rcases hostWrite_cases number v s with e | e | ⟨-, _, _, -, e⟩ <;> simp only [e] <;> exact ⟨hp, hio, hscript⟩
  | reset | rxErr | rx | tick | srcWrite => exact ⟨hp, hio, hscript⟩

/-- The environment's turn leaves it well formed. -/
theorem EnvWf.takeTurn {s : State} (hs : EnvWf s) : EnvWf (takeTurn s) := by
  refine takeTurn_keeps (P := fun u => EnvWf u) hs hs.2.2 (fun acts rest e => ?_) (fun ha hu => hu.applyAct ha)
  obtain ⟨hp, hio, hscript⟩ := hs
  exact ⟨hp, hio, fun acts' h => hscript acts' (by rw [e]; exact .tail _ h)⟩

/-- A move leaves the environment well formed. -/
theorem Move.envWf {s t : State} (h : Move s t) (hs : EnvWf s) : EnvWf t := by
  obtain ⟨hstrap, hscript, -⟩ := h.environment
  unfold EnvWf
  rw [h.params, hstrap, hscript]
  exact hs

/-- The reset takes the parameters from the pins (R352), where they are well formed. -/
theorem EnvWf.resetMachine {s : State} (hs : EnvWf s) : EnvWf (resetMachine s) := ⟨hs.2.1, hs.2.1, hs.2.2⟩

/-- A step leaves the environment well formed. -/
theorem EnvWf.step {s t : State} (hs : EnvWf s) (h : step s = .next t) : EnvWf t :=
  step_keeps (P := fun u => EnvWf u) h hs.takeTurn (fun m hu => m.envWf hu) (fun _ hu => hu.resetMachine)

end Sys2Proof.Machine
end

section
/-! The invariants of the connection table (R49), of the widths and roles (R50, R52, R55) and what a step leaves alone
(R52, R55), each proved of a move. -/

namespace Sys2Proof.Machine

/-! ### The connection table -/

/-- `add_seq` stays below `MAX_SEQ` (R140). -/
theorem addSeq_lt {q : Params} (h : q.Wf) (a : Word32) (n : Nat) : (addSeq q a n).toNat < q.maxSeq := by
  obtain ⟨-, -, -, hmin, hmax, -⟩ := h
  have := Nat.mod_lt (a.toNat + n) (show 0 < q.maxSeq by omega)
  unfold addSeq
  rw [BitVec.toNat_ofNat, Nat.mod_eq_of_lt (by omega)]
  exact this

/-- A number kept or advanced stays below `MAX_SEQ`. -/
theorem KeptOrAdvanced.lt {q : Params} (hq : q.Wf) {a b : Word32} (h : KeptOrAdvanced q a b)
    (ha : a.toNat < q.maxSeq) : b.toNat < q.maxSeq := by
  rcases h with rfl | ⟨n, rfl⟩
  · exact ha
  · exact addSeq_lt hq a n

/-- A free slot meets the invariants of a slot (R49). -/
theorem slotInv_free (q : Params) (i : Nat) : SlotInv q i Slot.free := ⟨fun _ => rfl, fun h => Bool.noConfusion h⟩

/-- A slot in use meets them when its id, its numbers and its sink do (R42, R44, R45, R47). -/
theorem slotInv_used {q : Params} {i : Nat} {x : Slot} (used : x.inUse = true) (id : x.connId.toNat = i + 1)
    (seq : x.seq.toNat < q.maxSeq) (ack : x.ack.toNat < q.maxSeq) (sink : x.sinkOpen = !x.finObserved) :
    SlotInv q i x := ⟨fun h => by rw [used] at h; exact Bool.noConfusion h, fun _ => ⟨id, seq, ack, sink⟩⟩

/-- What a packet's event leaves in a slot meets the invariants of the slot. -/
theorem SlotEvent.slotInv {s : State} {i : Nat} {x : Slot} (h : SlotEvent s i x) (hq : s.params.Wf)
    (hi : i < s.params.nSlots) (hs : SlotInv s.params i (s.slot i)) : SlotInv s.params i x := by
  cases h with
  | freed => exact slotInv_free _ _
  | opened seq =>
    have hn : s.params.nSlots ≤ 65535 := hq.2.1
    have id : (BitVec.ofNat 16 (i + 1)).toNat = i + 1 := by rw [BitVec.toNat_ofNat]; omega
    exact slotInv_used rfl id (isnOf_lt hq _) (addSeq_lt hq _ _) rfl
  | closing used fin =>
    obtain ⟨id, seq, ack, -⟩ := hs.2 used
    exact slotInv_used used id seq ack (by simp [fin])
  | advanced seq' ack' used hseq hack =>
    obtain ⟨id, seq, ack, sink⟩ := hs.2 used
    exact slotInv_used used id (hseq.lt hq seq) (hack.lt hq ack) sink
  | marked ack' used hack =>
    obtain ⟨id, seq, ack, -⟩ := hs.2 used
    exact slotInv_used used id seq (hack.lt hq ack) rfl

/-- The invariants of the table read nothing but the parameters and the table. -/
theorem TableInv.congr {s t : State} (hs : TableInv s) (hp : t.params = s.params) (hsl : t.slots = s.slots) :
    TableInv t := by
  unfold TableInv State.slot
  rw [hp, hsl]
  exact hs

/-- A packet's event keeps the invariants of the table. -/
theorem TableEvent.tableInv {s t : State} (h : TableEvent s t) (hq : s.params.Wf) (hs : TableInv s) : TableInv t := by
  rcases h with h | ⟨i, x, hi, hx, h⟩
  · exact hs.congr h.params h.slots
  · obtain ⟨hlen, hinv⟩ := hs
    have set : TableInv (s.setSlot i x) := by
      refine ⟨by simpa using hlen, fun j hj => ?_⟩
      rw [State.setSlot_slot, State.setSlot_params]
      split
      · rename_i hij
        obtain ⟨rfl, -⟩ := hij
        exact hx.slotInv hq (hlen ▸ hi) (hinv i hi)
      · exact hinv j (by simpa using hj)
    exact set.congr h.params h.slots

/-- A move keeps the invariants of the table. -/
theorem Move.tableInv {s t : State} (h : Move s t) (hq : s.params.Wf) (hs : TableInv s) : TableInv t := by
  cases hr : s.role with
  | initiator => exact hs.congr h.params (h.slots_of_initiator hr)
  | responder =>
    cases h with
    | cleared | raised | counted | loaded => exact hs
    | initiator hr' => rw [hr] at hr'; cases hr'
    | responder _ h => exact h.tableInv hq hs

/-- After a reset every slot is free (R58). -/
theorem slot_resetWith (st : Straps) (io : Ports) (i : Nat) : (State.resetWith st io).slot i = Slot.free := by
  simp only [State.slot, State.resetWith, List.getD_eq_getElem?_getD, List.getElem?_replicate]
  split <;> rfl

/-- The table after a reset (R58). -/
theorem tableInv_resetWith (st : Straps) (io : Ports) : TableInv (State.resetWith st io) :=
  ⟨List.length_replicate, fun i _ => by rw [slot_resetWith]; exact slotInv_free _ _⟩

/-- Settles O50 (R49): each packet's event writes one slot, with a record that meets the slot's invariants. -/
theorem stepKeepsTableInvariant : Obligations.StepKeepsTableInvariant := by
  intro s t henv hs h
  have turn : TableInv (takeTurn s) := hs.congr (takeTurn_params s) (takeTurn_frame s).slots
  have kept : EnvWf t ∧ TableInv t :=
    step_keeps (P := fun u => EnvWf u ∧ TableInv u) h ⟨henv.takeTurn, turn⟩
      (fun m hu => ⟨m.envWf hu.1, m.tableInv hu.1.1 hu.2⟩)
      (fun _ hu => ⟨hu.1.resetMachine, tableInv_resetWith _ _⟩)
  exact kept.2

/-! ### Widths -/

/-- The widths of a slot's fields (R43, R48). -/
def SlotFits (q : Params) (x : Slot) : Prop := x.lastActivity < 2 ^ q.nowW ∧ x.peerAddr < 2 ^ q.peerAddrW

/-- A free slot fits. -/
theorem slotFits_free (q : Params) : SlotFits q Slot.free := ⟨Nat.two_pow_pos _, Nat.two_pow_pos _⟩

/-- What a packet's event leaves in a slot fits: it is stamped with `now` and has its old address or the sender's. -/
theorem SlotEvent.fits {s : State} {i : Nat} {x : Slot} (h : SlotEvent s i x) (now : s.now < 2 ^ s.params.nowW)
    (peer : s.rxp.peer < 2 ^ s.params.peerAddrW) (hs : SlotFits s.params (s.slot i)) : SlotFits s.params x := by
  cases h with
  | freed => exact slotFits_free _
  | opened => exact ⟨now, peer⟩
  | closing | advanced | marked => exact ⟨now, hs.2⟩

/-- The fields outside the table fit their widths, and the table's do. -/
theorem rangeInv_iff (s : State) :
    RangeInv s ↔
      (s.now < 2 ^ s.params.nowW ∧ s.c.lastActivity < 2 ^ s.params.nowW ∧ s.c.lingerStart < 2 ^ s.params.nowW ∧
        s.p.sendTime < 2 ^ s.params.nowW ∧ s.c.peerAddr < 2 ^ s.params.peerAddrW ∧
        s.rxp.peer < 2 ^ s.params.peerAddrW ∧ s.sticky.toNat < 2 ^ 8) ∧
      ∀ x ∈ s.slots, SlotFits s.params x := by
  constructor
  · rintro ⟨now, act, linger, send, slotAct, addr, peer, slotAddr, sticky⟩
    exact ⟨⟨now, act, linger, send, addr, peer, sticky⟩, fun x hx => ⟨slotAct x hx, slotAddr x hx⟩⟩
  · rintro ⟨⟨now, act, linger, send, addr, peer, sticky⟩, fits⟩
    exact ⟨now, act, linger, send, fun x hx => (fits x hx).1, addr, peer, fun x hx => (fits x hx).2, sticky⟩

/-- A stamp kept or taken from `now` fits. -/
theorem stamp_lt {a b n w : Nat} (h : b = a ∨ b = n) (ha : a < w) (hn : n < w) : b < w :=
  h.elim (fun e => e ▸ ha) (fun e => e ▸ hn)

/-- A change of the initiator keeps the widths. -/
theorem InitiatorFrame.rangeInv {s t : State} (h : InitiatorFrame s t) (hs : RangeInv s) : RangeInv t := by
  obtain ⟨now, act, linger, send, slotAct, addr, peer, slotAddr, sticky⟩ := hs
  unfold RangeInv
  rw [h.params, h.now, h.slots, h.rxp, h.peerAddr]
  exact ⟨now, stamp_lt h.lastActivity act now, stamp_lt h.lingerStart linger now, stamp_lt h.sendTime send now,
    slotAct, addr, peer, slotAddr, h.sticky.toNat_lt sticky⟩

/-- A packet's event at the responder keeps the widths. -/
theorem TableEvent.rangeInv {s t : State} (h : TableEvent s t) (hs : RangeInv s) : RangeInv t := by
  have f := h.frame
  rw [rangeInv_iff] at hs ⊢
  obtain ⟨⟨now, act, linger, send, addr, peer, sticky⟩, fits⟩ := hs
  rw [f.params, f.now, f.c, f.p, f.rxp]
  refine ⟨⟨now, act, linger, send, addr, peer, f.sticky.toNat_lt sticky⟩, fun y hy => ?_⟩
  rcases h with h | ⟨i, x, hi, hx, h⟩
  · exact fits y (h.slots ▸ hy)
  · rw [h.slots] at hy
    rcases List.mem_or_eq_of_mem_set hy with hy | rfl
    · exact fits y hy
    · exact hx.fits now peer (fits _ (by rw [State.slot_of_lt hi]; exact List.getElem_mem hi))

/-- A move keeps the widths. -/
theorem Move.rangeInv {s t : State} (h : Move s t) (hs : RangeInv s) : RangeInv t := by
  cases h with
  | initiator _ h => exact h.frame.rangeInv hs
  | responder _ h => exact h.rangeInv hs
  | cleared => exact hs
  | raised b =>
    obtain ⟨now, act, linger, send, slotAct, addr, peer, slotAddr, sticky⟩ := hs
    exact ⟨now, act, linger, send, slotAct, addr, peer, slotAddr, (StickyGrows.stickyWith b _).toNat_lt sticky⟩
  | counted =>
    obtain ⟨-, rest⟩ := hs
    exact ⟨Nat.mod_lt _ (Nat.two_pow_pos _), rest⟩
  | loaded k a =>
    obtain ⟨now, act, linger, send, slotAct, addr, -, slotAddr, sticky⟩ := hs
    exact ⟨now, act, linger, send, slotAct, addr, Nat.mod_lt _ (Nat.two_pow_pos _), slotAddr, sticky⟩

/-- An action of the environment keeps the widths: an address written by the host is held to its own (log 5). -/
theorem RangeInv.applyAct {s : State} (hs : RangeInv s) (a : PortAct) : RangeInv (applyAct s a) := by
  cases a with
  | hostWrite number v =>
    unfold Sys2Proof.Machine.applyAct
    rcases hostWrite_cases number v s with e | e | ⟨-, _, _, ha, e⟩ <;> simp only [e]
    · exact hs
    · exact hs
    · obtain ⟨now, act, linger, send, slotAct, addr, peer, slotAddr, sticky⟩ := hs
      exact ⟨now, act, linger, send, slotAct, ha.elim (fun h => h ▸ addr) id, peer, slotAddr, sticky⟩
  | strap | reset | rxErr | rx | tick | srcWrite => exact hs

/-- After a reset every field fits its width (R58). -/
theorem rangeInv_resetWith (st : Straps) (io : Ports) : RangeInv (State.resetWith st io) := by
  have pos : ∀ w, 0 < 2 ^ w := fun w => Nat.two_pow_pos w
  rw [rangeInv_iff]
  refine ⟨⟨pos _, pos _, pos _, pos _, pos _, pos _, pos _⟩, fun x hx => ?_⟩
  rw [List.eq_of_mem_replicate hx]
  exact slotFits_free _

/-! ### Roles and the source bytes -/

/-- A move keeps the unselected engine at rest. -/
theorem Move.roleInv {s t : State} (h : Move s t) (hs : RoleInv s) : RoleInv t := by
  unfold RoleInv
  rw [h.role]
  refine ⟨fun hr => ?_, fun hr => ?_⟩
  · rw [h.slots_of_initiator hr]; exact hs.1 hr
  · obtain ⟨hc, hp⟩ := h.records_of_responder hr
    rw [hc, hp]; exact hs.2 hr

/-- The environment's turn keeps the unselected engine at rest: a host write does not change `C.state`. -/
theorem RoleInv.takeTurn {s : State} (hs : RoleInv s) : RoleInv (takeTurn s) := by
  have f := takeTurn_frame s
  unfold RoleInv
  rw [takeTurn_role, f.slots, f.p, show (Sys2Proof.Machine.takeTurn s).c.state = s.c.state by rw [f.c]]
  exact hs

/-- After a reset both engines are at rest (R58). -/
theorem roleInv_resetWith (st : Straps) (io : Ports) : RoleInv (State.resetWith st io) :=
  ⟨fun _ _ hx => List.eq_of_mem_replicate hx, fun _ => ⟨rfl, rfl⟩⟩

/-- An action of the environment keeps the source bytes canonical. -/
theorem srcWf_applyAct {s : State} (hs : Memory.wf s.io.src = true) (a : PortAct) :
    Memory.wf (applyAct s a).io.src = true := by
  cases a with
  | hostWrite number v =>
    unfold applyAct
    rcases hostWrite_cases number v s with e | e | ⟨-, _, _, -, e⟩ <;> simp only [e] <;> exact hs
  | srcWrite offset byte => exact Memory.write_wf hs offset.isLt
  | strap | reset | rxErr | rx | tick => exact hs

/-- Settles O51 (R50, R52, R55; log 3, log 5). -/
theorem stepKeepsRangesRolesAndMemoryForm : Obligations.StepKeepsRangesRolesAndMemoryForm := by
  intro s t henv h
  refine ⟨fun hs => ?_, fun hs => ?_, fun hs => ?_⟩
  · have turn := takeTurn_keeps (P := fun u => RangeInv u) hs henv.2.2 (fun _ _ _ => hs) (fun _ hu => hu.applyAct _)
    exact step_keeps h turn (fun m hu => m.rangeInv hu) (fun _ _ => rangeInv_resetWith _ _)
  · exact step_keeps (P := fun u => RoleInv u) h hs.takeTurn (fun m hu => m.roleInv hu)
      (fun _ _ => roleInv_resetWith _ _)
  · have turn := takeTurn_keeps (P := fun u => Memory.wf u.io.src = true) hs henv.2.2 (fun _ _ _ => hs)
      (fun _ hu => srcWf_applyAct hu _)
    refine step_keeps (P := fun u => Memory.wf u.io.src = true) h turn (fun m hu => ?_) (fun _ hu => hu)
    rw [m.environment.2.2]
    exact hu

/-! ### What a step other than a reset leaves -/

/-- Settles O46 (R55): the turn leaves `STICKY` and every move only adds bits. -/
theorem stickyBitsStayUntilReset : Obligations.StickyBitsStayUntilReset := by
  intro s t b h hreset hb
  have turn : (takeTurn s).stickyBit b = true := by rw [State.stickyBit, (takeTurn_frame s).sticky]; exact hb
  exact step_keeps (P := fun u => u.stickyBit b = true) h turn (fun m hu => m.sticky.getLsbD hu)
    (fun ha _ => absurd ha hreset)

/-- Settles O45 (R52, R352): after the turn, whose host writes reach two fields of `C` in IDLE, no move writes the other
engine's state. -/
theorem unselectedEngineIsInert : Obligations.UnselectedEngineIsInert := by
  intro s t h hreset
  have f := takeTurn_frame s
  have kept : t.straps = s.straps ∧ (s.role = .initiator → t.slots = s.slots) ∧
      (s.role = .responder → t.p = s.p ∧ t.c = (takeTurn s).c) := by
    refine step_keeps
      (P := fun u => u.straps = s.straps ∧ (s.role = .initiator → u.slots = s.slots) ∧
        (s.role = .responder → u.p = s.p ∧ u.c = (takeTurn s).c))
      h ⟨f.straps, fun _ => f.slots, fun _ => ⟨f.p, rfl⟩⟩ ?_ (fun ha _ => absurd ha hreset)
    rintro u v m ⟨hst, hslots, hrec⟩
    have role : u.role = s.role := by rw [State.role_eq, hst, State.role_eq]
    refine ⟨m.straps.trans hst, fun hr => ?_, fun hr => ?_⟩
    · exact (m.slots_of_initiator (role.trans hr)).trans (hslots hr)
    · obtain ⟨hc, hp⟩ := m.records_of_responder (role.trans hr)
      exact ⟨hp.trans (hrec hr).1, hc.trans (hrec hr).2⟩
  obtain ⟨hst, hslots, hrec⟩ := kept
  refine ⟨hst, hslots, fun hr => ?_⟩
  obtain ⟨hp, hc⟩ := hrec hr
  rw [hc]
  exact ⟨hp, f.c, f.cKept⟩

end Sys2Proof.Machine
end

section
/-! The invariants of the initiator state (R31, R34, R35), each rule's effect on them said once and then put together
over the moves of a step; and what a reset leaves (R58). -/

namespace Sys2Proof.Machine

/-- The invariants read nothing but the parameters and the two records. -/
theorem InitiatorInv.congr {s t : State} (hs : InitiatorInv s) (hp : t.params = s.params) (hc : t.c = s.c)
    (hpend : t.p = s.p) : InitiatorInv t := by
  unfold InitiatorInv
  rw [hp, hc, hpend]
  exact hs

/-- Outside IDLE and CLOSED the source has passed the size check of R186. -/
theorem InitiatorInv.size_checked {s : State} (hs : InitiatorInv s) (hidle : s.c.state ≠ .idle)
    (hclosed : s.c.state ≠ .closed) : s.c.srcLen.toNat ≤ s.params.maxXfer := by
  obtain ⟨-, -, -, -, -, -, -, -, -, -, -, -, result, size⟩ := hs
  refine size hidle ?_
  rw [result hclosed]
  exact Result.noConfusion

/-- `close(res)` keeps the invariants, `ERR_OVERSIZE` being the result of the size check alone (R186, R205). -/
theorem InitiatorInv.closeConn {s : State} (hs : InitiatorInv s) {r : Result}
    (hsize : r ≠ .errOversize → s.c.srcLen.toNat ≤ s.params.maxXfer) : InitiatorInv (closeConn r s) := by
  obtain ⟨localSeq, peerAck, ack, -, -, -, -, offLe, -⟩ := hs
  refine ⟨localSeq, peerAck, ack, rfl, ?_, ?_, ?_, offLe, ?_, ?_, ?_, ?_, ?_, fun _ h => hsize h⟩ <;>
    simp [ConnState.sending]

/-- Closing in a state that is neither IDLE nor CLOSED. -/
theorem InitiatorInv.closeConn_active {s : State} (hs : InitiatorInv s) (hidle : s.c.state ≠ .idle)
    (hclosed : s.c.state ≠ .closed) (r : Result) : InitiatorInv (Sys2Proof.Machine.closeConn r s) :=
  hs.closeConn fun _ => hs.size_checked hidle hclosed

/-- Sending the outstanding packet keeps the invariants (R184, R204). -/
theorem InitiatorInv.sendPending {s : State} (hs : InitiatorInv s) : InitiatorInv (sendPending s) := by
  obtain ⟨u, f, h⟩ := sendPending_cases s
  have hu : InitiatorInv u := hs.congr (by rw [State.params_eq, f.straps, State.params_eq]) f.c f.p
  rcases h with h | ⟨sending, h⟩ <;> rw [h]
  · exact hu
  · rw [← f.c] at sending
    refine hu.closeConn_active ?_ ?_ _ <;> intro e <;> rw [e] at sending <;> cases sending

/-- Sending it once more keeps the invariants (R169): only the time stamp is new. -/
theorem InitiatorInv.resendPending {s : State} (hs : InitiatorInv s) : InitiatorInv (resendPending s) :=
  InitiatorInv.sendPending (s := s.setP { s.p with sendTime := s.now }) hs

/-- `tx_or_die` keeps the invariants outside IDLE and CLOSED (R204). -/
theorem InitiatorInv.txOrDie {s : State} (hs : InitiatorInv s) (hidle : s.c.state ≠ .idle)
    (hclosed : s.c.state ≠ .closed) (k : Packet) : InitiatorInv (txOrDie k s) := by
  obtain ⟨u, f, h⟩ := txOrDie_cases k s
  have hu : InitiatorInv u := hs.congr (by rw [State.params_eq, f.straps, State.params_eq]) f.c f.p
  rcases h with h | h <;> rw [h]
  · exact hu
  · exact hu.closeConn_active (by rw [f.c]; exact hidle) (by rw [f.c]; exact hclosed) _

/-- The initiator is in ESTABLISHED with everything below the offset acknowledged, as `send_next` asks (R190). -/
structure ReadyToSend (off : Word32) (s : State) : Prop where
  state : s.c.state = .established
  localSeq : s.c.localSeq.toNat < s.params.maxSeq
  peerAck : s.c.peerAckExpected.toNat < s.params.maxSeq
  offset : off.toNat ≤ s.c.srcLen.toNat
  chunked : off ≠ s.c.srcLen → off.toNat % s.params.chunk = 0
  result : s.c.result = .ok
  size : s.c.srcLen.toNat ≤ s.params.maxXfer

/-- `send_next` establishes the invariants (R190): of a new chunk before the end, of the FIN at the end. -/
theorem ReadyToSend.sendNext_inv {off : Word32} {s : State} (h : ReadyToSend off s) :
    InitiatorInv (sendNext off s) := by
  have pos : 0 < s.params.maxSeq := Nat.zero_lt_of_lt h.localSeq
  rcases sendNext_cases off s with ⟨last, e⟩ | ⟨more, e⟩ <;> rw [e] <;> apply InitiatorInv.sendPending
  · refine ⟨h.localSeq, h.peerAck, pos, rfl, fun _ => rfl, fun _ => rfl, ?_, h.offset, ?_, fun _ => last, ?_, ?_,
      fun _ => h.result, fun _ _ => h.size⟩ <;> simp [enterFinSent]
  · have lt : off.toNat < s.c.srcLen.toNat := lt_of_le_of_ne h.offset fun e => more (BitVec.eq_of_toNat_eq e)
    refine ⟨h.localSeq, h.peerAck, h.peerAck, ?_, fun _ => rfl, ?_, fun _ => rfl, h.offset, fun _ => lt, ?_,
      fun _ => h.chunked more, ?_, fun _ => h.result, fun _ _ => h.size⟩ <;> simp [h.state, ConnState.sending]

/-- The start of a transfer keeps the invariants (R186). -/
theorem InitiatorInv.startTransfer {s : State} (hq : s.params.Wf) (hidle : s.c.state = .idle) (hs : InitiatorInv s) :
    InitiatorInv (startTransfer s) := by
  unfold Sys2Proof.Machine.startTransfer
  split
  · exact hs.closeConn fun h => absurd rfl h
  · rename_i fits
    obtain ⟨-, peerAck, -, -, -, -, -, -, -, -, -, -, result, -⟩ := hs
    have isn := isnOf_lt hq (drawValue s)
    apply InitiatorInv.sendPending
    refine ⟨isn, peerAck, Nat.zero_lt_of_lt isn, rfl, fun _ => rfl, fun _ => rfl, ?_, Nat.zero_le _, ?_, ?_, ?_,
      fun _ => rfl, fun _ => result (by rw [hidle]; exact ConnState.noConfusion), fun _ _ => Nat.not_lt.mp fits⟩ <;>
      simp

/-- A SYNACK keeps the invariants (R188, R189). -/
theorem InitiatorInv.synack {s : State} (hq : s.params.Wf) (hs : InitiatorInv s) (seq ack : Word32) (id : Word16) :
    InitiatorInv (initiatorSynack seq ack id s) := by
  cases hst : s.c.state with
  | synSent =>
    simp only [initiatorSynack, hst]
    split
    · rename_i expected
      have size := hs.size_checked (by simp [hst]) (by simp [hst])
      obtain ⟨-, -, -, -, -, -, -, -, -, -, -, -, result, -⟩ := hs
      exact ReadyToSend.sendNext_inv
        ⟨rfl, by rw [expected]; exact addSeq_lt hq _ _, addSeq_lt hq _ _, Nat.zero_le _, fun _ => Nat.zero_mod _,
          result (by simp [hst]), size⟩
    · exact hs
  | idle | established | finSent | linger | closed => simpa only [initiatorSynack, hst] using hs

/-- The next offset stays inside the source (R151, R185). -/
theorem nextOffset_le {s : State} (hle : s.p.sourceOffset.toNat ≤ s.c.srcLen.toNat) :
    (nextOffset s).toNat ≤ s.c.srcLen.toNat := by
  rw [nextOffset_toNat hle]
  unfold chunkLen
  omega

/-- The offset after a whole chunk is again a multiple of `CHUNK`; after a shorter one it is the end (R142, R185). -/
theorem nextOffset_mod_chunk {s : State} (hle : s.p.sourceOffset.toNat ≤ s.c.srcLen.toNat)
    (hmod : s.p.sourceOffset.toNat % s.params.chunk = 0) (hne : nextOffset s ≠ s.c.srcLen) :
    (nextOffset s).toNat % s.params.chunk = 0 := by
  have next := nextOffset_toNat hle
  have ne : (nextOffset s).toNat ≠ s.c.srcLen.toNat := fun e => hne (BitVec.eq_of_toNat_eq e)
  have whole : chunkLen s = s.params.chunk := by
    unfold chunkLen at next ⊢
    omega
  rw [next, whole, Nat.add_mod_right, hmod]

/-- An ACK keeps the invariants (R191, R192). -/
theorem InitiatorInv.ack {s : State} (hq : s.params.Wf) (hs : InitiatorInv s) (ack : Word32) :
    InitiatorInv (initiatorAck ack s) := by
  cases hst : s.c.state with
  | established =>
    simp only [initiatorAck, hst]
    split
    · have size := hs.size_checked (by simp [hst]) (by simp [hst])
      obtain ⟨-, peerAck, -, -, -, -, -, offLe, -, -, offMod, -, result, -⟩ := hs
      exact ReadyToSend.sendNext_inv
        ⟨hst, addSeq_lt hq _ _, peerAck, nextOffset_le offLe, nextOffset_mod_chunk offLe (offMod hst),
          result (by simp [hst]), size⟩
    · exact hs.resendPending
  | idle | synSent | finSent | linger | closed => simpa only [initiatorAck, hst] using hs

/-- The entry to LINGER keeps the invariants (R197, R198). -/
theorem InitiatorInv.enterLinger {s : State} (hs : InitiatorInv s) (hst : s.c.state = .finSent) (seq : Word32) :
    InitiatorInv (enterLinger seq s) := by
  have size := hs.size_checked (by simp [hst]) (by simp [hst])
  obtain ⟨localSeq, peerAck, ack, -, -, -, -, offLe, -, -, -, -, result, -⟩ := hs
  unfold Sys2Proof.Machine.enterLinger finalAck
  refine InitiatorInv.txOrDie ?_ (by simp) (by simp) _
  refine ⟨localSeq, peerAck, ack, rfl, ?_, ?_, ?_, offLe, ?_, ?_, ?_, ?_, fun _ => result (by simp [hst]),
    fun _ _ => size⟩ <;> simp [ConnState.sending]

/-- A FIN or FINACK keeps the invariants (R197, R200). -/
theorem InitiatorInv.fin {s : State} (hs : InitiatorInv s) (kind : Kind) (seq ack : Word32) :
    InitiatorInv (initiatorFin kind seq ack s) := by
  cases hst : s.c.state with
  | finSent =>
    simp only [initiatorFin, hst]
    split
    · exact hs.enterLinger hst seq
    · exact hs
  | linger =>
    simp only [initiatorFin, hst]
    split
    · exact hs.txOrDie (by simp [hst]) (by simp [hst]) _
    · exact hs
  | idle | synSent | established | closed => simpa only [initiatorFin, hst] using hs

/-- A deadline that closes runs only in a state that is neither IDLE nor CLOSED (R163, R164). -/
theorem active_of_deadline {s : State} (h : abortExpired s = true ∨ lingerExpired s = true) :
    s.c.state ≠ .idle ∧ s.c.state ≠ .closed := by
  constructor <;> intro e <;> simp [abortExpired, abortRunning, lingerExpired, e] at h

/-- The deadlines of a tick keep the invariants (R168). -/
theorem InitiatorInv.evalDeadlines {s : State} (hs : InitiatorInv s) : InitiatorInv (evalDeadlines s) := by
  rcases evalDeadlines_cases s with ⟨ha, h⟩ | ⟨-, hl, h⟩ | ⟨-, -, -, h⟩ | ⟨-, -, -, h⟩ <;> rw [h]
  · obtain ⟨hidle, hclosed⟩ := active_of_deadline (.inl ha)
    exact hs.closeConn_active hidle hclosed _
  · obtain ⟨hidle, hclosed⟩ := active_of_deadline (.inr hl)
    exact hs.closeConn_active hidle hclosed _
  · exact hs.resendPending
  · exact hs

/-- A change of the initiator keeps the invariants. -/
theorem InitiatorMove.initiatorInv {s t : State} (h : InitiatorMove s t) (hq : s.params.Wf) (hs : InitiatorInv s) :
    InitiatorInv t := by
  cases h with
  | refreshed => exact hs
  | rxFailed active =>
    refine hs.closeConn_active ?_ ?_ _ <;> intro e <;> rw [e] at active <;> cases active
  | started idle => exact hs.startTransfer hq idle
  | evaluated => exact hs.evalDeadlines
  | synack => exact hs.synack hq _ _ _
  | ack => exact hs.ack hq _
  | fin => exact hs.fin _ _ _

/-- A move keeps the invariants of the initiator state. -/
theorem Move.initiatorInv {s t : State} (h : Move s t) (hq : s.params.Wf) (hs : InitiatorInv s) : InitiatorInv t := by
  cases h with
  | initiator _ h => exact h.initiatorInv hq hs
  | responder _ h => exact hs.congr h.frame.params h.frame.c h.frame.p
  | cleared | raised | counted | loaded => exact hs

/-- The environment's turn keeps them: it can change `C.src_len` only in IDLE, where nothing of the source has been
sent (R53, R367). -/
theorem InitiatorInv.takeTurn {s : State} (hs : InitiatorInv s) : InitiatorInv (takeTurn s) := by
  have f := takeTurn_frame s
  by_cases hidle : s.c.state = .idle
  · obtain ⟨localSeq, peerAck, ack, valid, -, -, -, -, -, -, -, offZero, result, -⟩ := hs
    unfold InitiatorInv
    rw [takeTurn_params, f.p, f.c]
    refine ⟨localSeq, peerAck, ack, valid, ?_, ?_, ?_, ?_, ?_, ?_, ?_, offZero, result, ?_⟩ <;>
      simp [hidle, ConnState.sending, offZero (.inl hidle)]
  · exact hs.congr (takeTurn_params s) (f.cKept hidle) f.p

/-- The initiator state after a reset (R58). -/
theorem initiatorInv_resetWith {st : Straps} (hq : st.params.Wf) (io : Ports) :
    InitiatorInv (State.resetWith st io) := by
  have pos : 0 < st.params.maxSeq := Nat.zero_lt_of_lt (isnOf_lt hq 0)
  refine ⟨pos, pos, pos, rfl, ?_, fun _ => rfl, fun _ => rfl, Nat.le_refl _, ?_, fun _ => rfl, fun _ => Nat.zero_mod _,
    fun _ => rfl, fun _ => rfl, ?_⟩ <;> simp [State.resetWith, Conn.zero, ConnState.sending]

/-- Settles O49 (R34, R113). -/
theorem stepKeepsInitiatorInvariant : Obligations.StepKeepsInitiatorInvariant := by
  intro s t henv hs h
  exact step_keeps (P := fun u => EnvWf u ∧ InitiatorInv u) h ⟨henv.takeTurn, hs.takeTurn⟩
    (fun m hu => ⟨m.envWf hu.1, m.initiatorInv hu.1.1 hu.2⟩)
    (fun _ hu => ⟨hu.1.resetMachine, initiatorInv_resetWith hu.1.2.1 _⟩)

/-! ### The reset state -/

/-- Settles O48 (R58, log 1): what a reset leaves meets the invariants under any straps, and the default parameters are
well formed. -/
theorem resetMeetsInvariants : Obligations.ResetMeetsInvariants := by
  have defaults : Straps.atReset.params.Wf := by decide
  exact ⟨⟨defaults, defaults, nofun⟩, initiatorInv_resetWith defaults _, tableInv_resetWith _ _,
    rangeInv_resetWith _ _, roleInv_resetWith _ _, rfl⟩

/-- Settles O40 (R58, R350). -/
theorem resetLeavesTableOfResetValues : Obligations.ResetLeavesTableOfResetValues := by
  intro s
  have slots : ∀ x ∈ (resetMachine s).slots, x = Slot.free := fun x hx => List.eq_of_mem_replicate hx
  have trace : (resetMachine s).io.trace = s.io.trace ++ [] := (List.append_nil _).symm
  refine ⟨rfl, rfl, rfl, rfl, rfl, rfl, rfl, rfl, rfl, rfl, rfl, rfl, rfl, rfl, rfl, rfl, rfl, List.length_replicate,
    fun x hx => ?_, issuedOps_of_trace trace⟩
  rw [slots x hx]
  exact ⟨rfl, rfl, rfl, rfl, rfl, rfl, rfl, rfl⟩

end Sys2Proof.Machine
end

section
/-! The host register map (R53 to R56): the fields of a register as a number, and what a read gives after a write. -/

namespace Sys2Proof.Machine

/-! ### Fields of a register -/

/-- A field joined above a smaller number: the word of the sum. -/
theorem ofNat_or_shiftLeft {a k : Nat} (h : a < 2 ^ k) (b : Nat) :
    BitVec.ofNat 32 a ||| (BitVec.ofNat 32 b <<< k) = BitVec.ofNat 32 (a + 2 ^ k * b) := by
  apply BitVec.eq_of_toNat_eq
  have shifted : (BitVec.ofNat 32 b <<< k).toNat = 2 ^ k * b % 2 ^ 32 := by
    rw [BitVec.toNat_shiftLeft, BitVec.toNat_ofNat, Nat.shiftLeft_eq, Nat.mod_mul_mod, Nat.mul_comm]
  rw [BitVec.toNat_or, shifted, BitVec.toNat_ofNat, BitVec.toNat_ofNat, ← Nat.or_mod_two_pow, Nat.lor_comm,
    ← Nat.two_pow_add_eq_or_of_lt h, Nat.add_comm]

/-- A one-bit field as a number. -/
theorem bitField_eq (b : Bool) : bitField b = BitVec.ofNat 32 (if b then 1 else 0) := by
  cases b <;> rfl

/-- A one-bit field is 0 or 1. -/
theorem ite_le_one (c : Prop) [Decidable c] : (if c then 1 else 0 : Nat) ≤ 1 := by
  split <;> omega

/-- `CFG` as a number (R53). -/
theorem cfgWord_eq (s : State) :
    cfgWord s = BitVec.ofNat 32 ((if s.role = .responder then 1 else 0) + 2 ^ 16 * s.params.nSlots) := by
  have role := ite_le_one (s.role = .responder)
  unfold cfgWord
  rw [bitField_eq, ofNat_or_shiftLeft (by simp only [beq_iff_eq]; omega)]
  simp only [beq_iff_eq]

/-- `STATUS` as a number (R53). -/
theorem statusWord_eq (s : State) :
    statusWord s =
      BitVec.ofNat 32
        (s.c.state.code.toNat + 2 ^ 4 * s.c.result.code.toNat + 2 ^ 8 * (if s.c.state = .closed then 1 else 0) +
          2 ^ 9 * (if s.p.valid then 1 else 0)) := by
  have state := s.c.state.code.isLt
  have result := s.c.result.code.isLt
  have done := ite_le_one (s.c.state = .closed)
  unfold statusWord
  simp only [bitField_eq, ← BitVec.ofNat_toNat, beq_iff_eq]
  rw [ofNat_or_shiftLeft (by omega), ofNat_or_shiftLeft (by omega), ofNat_or_shiftLeft (by omega)]

/-- `SLOT_FLAGS[i]` as a number (R53). -/
theorem slotFlagsWord_eq (x : Slot) :
    slotFlagsWord x =
      BitVec.ofNat 32
        ((if x.inUse then 1 else 0) + 2 * (if x.finObserved then 1 else 0) + 4 * (if x.sinkOpen then 1 else 0) +
          2 ^ 16 * x.connId.toNat) := by
  have used := ite_le_one (x.inUse = true)
  have fin := ite_le_one (x.finObserved = true)
  have sink := ite_le_one (x.sinkOpen = true)
  unfold slotFlagsWord
  simp only [bitField_eq, ← BitVec.ofNat_toNat]
  rw [ofNat_or_shiftLeft (by omega), ofNat_or_shiftLeft (by omega), ofNat_or_shiftLeft (by omega)]
  rfl

/-! ### Reads -/

/-- Register `r` of the block of slot `i` (R53). -/
theorem hostRead_slot (s : State) (i : Nat) {r : Nat} (hr : r < 8) :
    hostRead s (0x100 + 8 * i + r) = if i < s.params.nSlots then slotRegister (s.slot i) r else 0 := by
  have block : (0x100 + 8 * i + r - 0x100) / 8 = i := by omega
  have register : (0x100 + 8 * i + r - 0x100) % 8 = r := by omega
  unfold hostRead
  rw [if_pos (by omega), block, register]

/-- The numbers between the last single register and the first slot's block read 0 (R53). -/
theorem hostRead_reserved (s : State) {number : Nat} (lo : 0x0C < number) (hi : number < 0x100) :
    hostRead s number = 0 := by
  unfold hostRead
  rw [if_neg (by omega), if_neg (by omega), if_neg (by omega), if_neg (by omega), if_neg (by omega), if_neg (by omega),
    if_neg (by omega), if_neg (by omega), if_neg (by omega), if_neg (by omega), if_neg (by omega), if_neg (by omega),
    if_neg (by omega)]

/-- Settles O42 (R53). -/
theorem hostReadsRegisterMap : Obligations.HostReadsRegisterMap := by
  intro s
  have connId : (hostRead s 0x07).toNat = s.c.connId.toNat :=
    BitVec.toNat_setWidth_of_le (b := s.c.connId) (by omega)
  refine ⟨rfl, statusWord_eq s, fun _ => cfgWord_eq s, rfl, rfl, rfl, rfl, connId, rfl, rfl, rfl, rfl, rfl,
    fun _ lo hi => hostRead_reserved s lo hi, fun i hi r hr => ?_, fun i hi => ?_⟩
  · rw [hostRead_slot s i hr, if_neg (by omega)]
  · have block : ∀ r < 8, hostRead s (0x100 + 8 * i + r) = slotRegister (s.slot i) r := fun r hr => by
      rw [hostRead_slot s i hr, if_pos hi]
    exact ⟨(block 0 (by omega)).trans (slotFlagsWord_eq _), block 1 (by omega), block 2 (by omega), block 3 (by omega),
      block 4 (by omega), block 5 (by omega), block 6 (by omega), block 7 (by omega)⟩

/-! ### Writes -/

/-- The low word of an address is not touched by a width of at least 32 bits. -/
theorem lowWord_mod_two_pow {w : Nat} (h : 32 ≤ w) (n : Nat) : lowWord (n % 2 ^ w) = lowWord n := by
  apply BitVec.eq_of_toNat_eq
  simp only [lowWord, BitVec.toNat_ofNat]
  exact Nat.mod_mod_of_dvd n (Nat.pow_dvd_pow 2 h)

/-- Bits 47:32 of a number are those of its low 48 bits. -/
theorem highHalf_mod_48 (n : Nat) : highHalf (n % 2 ^ 48) = highHalf n := by
  unfold highHalf
  congr 1
  omega

/-- Bits 47:32 of an address are not touched by a width of at least 48 bits. -/
theorem highHalf_mod_two_pow {w : Nat} (h : 48 ≤ w) (n : Nat) : highHalf (n % 2 ^ w) = highHalf n := by
  rw [← highHalf_mod_48, Nat.mod_mod_of_dvd n (Nat.pow_dvd_pow 2 h), highHalf_mod_48]

/-- `PEER_LO` reads the value written to it (R53). -/
theorem lowWord_withPeerLo {q : Params} (h : 32 ≤ q.peerAddrW) (a : Nat) (v : Word32) :
    lowWord (withPeerLo q a v) = v := by
  unfold withPeerLo peerAddrOf
  rw [lowWord_mod_two_pow h]
  apply BitVec.eq_of_toNat_eq
  have := v.isLt
  rw [lowWord, BitVec.toNat_ofNat]
  omega

/-- A write of `PEER_HI` leaves `PEER_LO` (R53). -/
theorem lowWord_withPeerHi {q : Params} (h : 32 ≤ q.peerAddrW) (a : Nat) (v : Word32) :
    lowWord (withPeerHi q a v) = lowWord a := by
  unfold withPeerHi peerAddrOf
  rw [lowWord_mod_two_pow h]
  apply BitVec.eq_of_toNat_eq
  simp only [lowWord, BitVec.toNat_ofNat]
  omega

/-- A write of `PEER_LO` leaves `PEER_HI` (R53). -/
theorem highHalf_withPeerLo {q : Params} (h : 48 ≤ q.peerAddrW) (a : Nat) (v : Word32) :
    highHalf (withPeerLo q a v) = highHalf a := by
  unfold withPeerLo peerAddrOf
  rw [highHalf_mod_two_pow h]
  unfold highHalf
  congr 1
  have := v.isLt
  omega

/-- `PEER_HI` reads the low half of the value written to it (R53). -/
theorem highHalf_withPeerHi {q : Params} (h : 48 ≤ q.peerAddrW) (a : Nat) (v : Word32) :
    highHalf (withPeerHi q a v) = (v.setWidth 16).setWidth 32 := by
  unfold withPeerHi peerAddrOf
  rw [highHalf_mod_two_pow h]
  apply BitVec.eq_of_toNat_eq
  simp only [highHalf, BitVec.toNat_ofNat, BitVec.toNat_setWidth]
  omega

/-- A write of `CTRL` (R54). -/
theorem hostWrite_ctrl (v : Word32) (s : State) :
    hostWrite 0 v s = if v.getLsbD 0 then s.setIo { s.io with start := s.io.start + 1 } else s := rfl

/-- Outside IDLE a write of anything but `CTRL` does nothing (R53, R367). -/
theorem hostWrite_outside_idle {s : State} {number : Nat} (hs : s.c.state ≠ .idle) (h0 : number ≠ 0) (v : Word32) :
    hostWrite number v s = s := by
  unfold hostWrite writeInIdle
  simp only [if_neg hs, if_neg h0, ite_self]

/-- A write of a number that is not writable does nothing (R53). -/
theorem hostWrite_read_only (s : State) {number : Nat} (h0 : number ≠ 0) (h4 : number ≠ 4) (h5 : number ≠ 5)
    (h6 : number ≠ 6) (v : Word32) : hostWrite number v s = s := by
  unfold hostWrite
  rw [if_neg h0, if_neg h4, if_neg h5, if_neg h6]

/-- A write in IDLE takes effect (R53). -/
theorem writeInIdle_idle {s : State} (h : s.c.state = .idle) (c : Conn) : writeInIdle c s = s.setC c := if_pos h

/-- Settles O41 (R53, R54, R56, R367; log 5, log 11). -/
theorem hostWritesActOnlyWhereAllowed : Obligations.HostWritesActOnlyWhereAllowed := by
  intro s number v a
  refine ⟨fun hv => by rw [hostWrite_ctrl, if_pos hv]; rfl, fun hv => by rw [hostWrite_ctrl, hv]; rfl,
    fun hs h0 => hostWrite_outside_idle hs h0 v, fun h0 h4 h5 h6 => hostWrite_read_only s h0 h4 h5 h6 v, fun hs => ?_⟩
  have srcLen : hostWrite 4 v s = s.setC { s.c with srcLen := v } := writeInIdle_idle hs _
  have peerLo : hostWrite 5 v s = s.setC { s.c with peerAddr := withPeerLo s.params a v } := writeInIdle_idle hs _
  have peerHi : hostWrite 6 v s = s.setC { s.c with peerAddr := withPeerHi s.params a v } := writeInIdle_idle hs _
  rw [srcLen, peerLo, peerHi]
  exact ⟨rfl, rfl, rfl, rfl, fun hw => ⟨lowWord_withPeerLo hw a v, lowWord_withPeerHi hw a v⟩,
    fun hw => ⟨highHalf_withPeerLo hw a v, highHalf_withPeerHi hw a v⟩⟩

end Sys2Proof.Machine
end

section
/-! The stored peer address of a slot is never read (R43, R81, R253): blanking it commutes with every operation of a
packet's event except the one write of a new slot, which stores an address that is blanked in its turn. -/

namespace Sys2Proof.Machine

/-- A slot with its stored peer address blanked. -/
def hidePeer (x : Slot) : Slot := { x with peerAddr := 0 }

/-! ### What blanking leaves -/

@[simp] theorem hidePeer_inUse (x : Slot) : (hidePeer x).inUse = x.inUse := rfl
@[simp] theorem hidePeer_finObserved (x : Slot) : (hidePeer x).finObserved = x.finObserved := rfl
@[simp] theorem hidePeer_sinkOpen (x : Slot) : (hidePeer x).sinkOpen = x.sinkOpen := rfl

@[simp] theorem hideSlotPeers_params (s : State) : (hideSlotPeers s).params = s.params := rfl
@[simp] theorem hideSlotPeers_c (s : State) : (hideSlotPeers s).c = s.c := rfl
@[simp] theorem hideSlotPeers_rxp (s : State) : (hideSlotPeers s).rxp = s.rxp := rfl
@[simp] theorem hideSlotPeers_slots (s : State) : (hideSlotPeers s).slots = s.slots.map hidePeer := rfl

/-- A slot of the blanked state is the blanked slot. -/
@[simp] theorem hideSlotPeers_slot (s : State) (i : Nat) : (hideSlotPeers s).slot i = hidePeer (s.slot i) := by
  simp only [State.slot, hideSlotPeers_slots, List.getD_eq_getElem?_getD, List.getElem?_map]
  cases s.slots[i]? <;> rfl

/-- Blanking twice is blanking once. -/
@[simp] theorem hideSlotPeers_idem (s : State) : hideSlotPeers (hideSlotPeers s) = hideSlotPeers s := by
  apply State.eq_of_fields <;> simp [hideSlotPeers, Function.comp_def]

/-- A write of one slot. -/
theorem hideSlotPeers_setSlot (i : Nat) (x : Slot) (s : State) :
    hideSlotPeers (s.setSlot i x) = (hideSlotPeers s).setSlot i (hidePeer x) := by
  exact State.eq_of_fields rfl rfl rfl rfl rfl List.map_set rfl rfl rfl

/-- The search for an id does not look at the address (R236). -/
@[simp] theorem lookupSlot_hideSlotPeers (s : State) (id : Word16) :
    lookupSlot (hideSlotPeers s) id = lookupSlot s id := by
  unfold lookupSlot
  rw [hideSlotPeers_slots, List.findIdx?_map]
  rfl

/-- The search for a candidate does not look at the address (R233). -/
@[simp] theorem findCandidate_hideSlotPeers (s : State) : findCandidate (hideSlotPeers s) = findCandidate s := by
  unfold findCandidate
  rw [hideSlotPeers_slots, List.findIdx?_map]
  rfl

/-! ### Transmission and the initiator, which do not look at the table -/

/-- `Tx(ENCODE(k), dest)`: the same answer, and the blanked state. -/
theorem transmit_hideSlotPeers (k : Packet) (dest : Nat) (s : State) :
    transmit k dest (hideSlotPeers s) = ((transmit k dest s).1, hideSlotPeers (transmit k dest s).2) := by
  unfold transmit
  rw [hideSlotPeers_params]
  split <;> rfl

/-- `tx_or_die` (R204). -/
theorem hideSlotPeers_txOrDie (k : Packet) (s : State) :
    hideSlotPeers (txOrDie k s) = txOrDie k (hideSlotPeers s) := by
  unfold txOrDie
  rw [hideSlotPeers_c, transmit_hideSlotPeers]
  rcases transmit k s.c.peerAddr s with ⟨_ | _, t⟩ <;> rfl

/-- Sending the outstanding packet (R184). -/
theorem hideSlotPeers_sendPending (s : State) : hideSlotPeers (sendPending s) = sendPending (hideSlotPeers s) := by
  have packet : pendingPacket (hideSlotPeers s) = pendingPacket s := rfl
  have read : noteSrcRead (hideSlotPeers s) = hideSlotPeers (noteSrcRead s) := by
    unfold noteSrcRead
    rw [hideSlotPeers_c]
    split <;> rfl
  unfold sendPending
  rw [packet, read]
  cases pendingPacket s with
  | none => rfl
  | some k => exact hideSlotPeers_txOrDie k _

/-- `send_next(off)` (R190). -/
theorem hideSlotPeers_sendNext (off : Word32) (s : State) :
    hideSlotPeers (sendNext off s) = sendNext off (hideSlotPeers s) := by
  unfold sendNext
  rw [hideSlotPeers_c]
  split <;> exact hideSlotPeers_sendPending _

/-- A SYNACK (R188, R189). -/
theorem hideSlotPeers_initiatorSynack (seq ack : Word32) (id : Word16) (s : State) :
    hideSlotPeers (initiatorSynack seq ack id s) = initiatorSynack seq ack id (hideSlotPeers s) := by
  unfold initiatorSynack
  rw [hideSlotPeers_c, hideSlotPeers_params]
  cases s.c.state with
  | synSent =>
    dsimp only
    split
    · exact hideSlotPeers_sendNext 0 _
    · rfl
  | idle | established | finSent | linger | closed => rfl

/-- An ACK (R191, R192). -/
theorem hideSlotPeers_initiatorAck (ack : Word32) (s : State) :
    hideSlotPeers (initiatorAck ack s) = initiatorAck ack (hideSlotPeers s) := by
  have chunk : chunkLen (hideSlotPeers s) = chunkLen s := rfl
  unfold initiatorAck
  rw [hideSlotPeers_c, hideSlotPeers_params, chunk]
  cases s.c.state with
  | established =>
    dsimp only
    split
    · exact hideSlotPeers_sendNext _ _
    · exact hideSlotPeers_sendPending _
  | idle | synSent | finSent | linger | closed => rfl

/-- A FIN or FINACK (R197, R198, R200). -/
theorem hideSlotPeers_initiatorFin (kind : Kind) (seq ack : Word32) (s : State) :
    hideSlotPeers (initiatorFin kind seq ack s) = initiatorFin kind seq ack (hideSlotPeers s) := by
  have fin : isPeerFin kind ack (hideSlotPeers s) = isPeerFin kind ack s := rfl
  unfold initiatorFin
  rw [hideSlotPeers_c, fin]
  cases s.c.state with
  | finSent | linger =>
    dsimp only
    split
    · exact hideSlotPeers_txOrDie _ _
    · rfl
  | idle | synSent | established | closed => rfl

/-! ### The operations on a slot -/

/-- `close_sink(i)` (R246). -/
theorem hideSlotPeers_closeSink (i : Nat) (s : State) :
    hideSlotPeers (closeSink i s) = closeSink i (hideSlotPeers s) := by
  unfold closeSink
  rw [hideSlotPeers_slot, hidePeer_sinkOpen]
  split
  · exact hideSlotPeers_setSlot _ _ _
  · rfl

/-- `free_slot(i)` (R247). -/
theorem hideSlotPeers_freeSlot (i : Nat) (s : State) : hideSlotPeers (freeSlot i s) = freeSlot i (hideSlotPeers s) :=
  hideSlotPeers_setSlot i Slot.free s

/-- `abort_slot(i)` (R247). -/
theorem hideSlotPeers_abortSlot (i : Nat) (s : State) :
    hideSlotPeers (abortSlot i s) = abortSlot i (hideSlotPeers s) := by
  unfold abortSlot
  rw [← hideSlotPeers_closeSink, ← hideSlotPeers_freeSlot]
  rfl

/-- A reply goes to the sender of the datagram, not to the stored address (R253): the same answer, and the blanked
state. -/
theorem replyTx_hideSlotPeers (i : Nat) (k : Packet) (s : State) :
    replyTx i k (hideSlotPeers s) = ((replyTx i k s).1, hideSlotPeers (replyTx i k s).2) := by
  unfold replyTx
  rw [hideSlotPeers_rxp, transmit_hideSlotPeers]
  rcases transmit k s.rxp.peer s with ⟨_ | _, t⟩
  · rfl
  · simp only [hideSlotPeers_abortSlot]

/-- The activity stamp (R249). -/
theorem hideSlotPeers_stampSlot (i : Nat) (s : State) :
    hideSlotPeers (stampSlot i s) = stampSlot i (hideSlotPeers s) := by
  unfold stampSlot
  rw [hideSlotPeers_setSlot, hideSlotPeers_slot]
  rfl

/-- Delivery (R239, R240). -/
theorem hideSlotPeers_deliver (i : Nat) (seq : Word32) (b : List Byte) (s : State) :
    hideSlotPeers (deliver i seq b s) = deliver i seq b (hideSlotPeers s) := by
  rw [deliver_eq, deliver_eq, hideSlotPeers_setSlot, hideSlotPeers_slot, apply_ite hideSlotPeers]
  rfl

/-- Reconciliation (R241). -/
theorem hideSlotPeers_reconcile (i : Nat) (ack : Word32) (s : State) :
    hideSlotPeers (reconcile i ack s) = reconcile i ack (hideSlotPeers s) := by
  rw [reconcile_eq, reconcile_eq, hideSlotPeers_setSlot, hideSlotPeers_slot]
  rfl

/-- The advance of a FIN (R243). -/
theorem hideSlotPeers_advanceFin (i : Nat) (seq : Word32) (s : State) :
    hideSlotPeers (advanceFin i seq s) = advanceFin i seq (hideSlotPeers s) := by
  rw [advanceFin_eq, advanceFin_eq, hideSlotPeers_setSlot, hideSlotPeers_slot]
  rfl

/-- The mark of a slot that has observed a FIN (R245). -/
theorem hideSlotPeers_markFin (i : Nat) (s : State) : hideSlotPeers (markFin i s) = markFin i (hideSlotPeers s) := by
  unfold markFin
  rw [hideSlotPeers_closeSink, hideSlotPeers_setSlot, hideSlotPeers_slot]
  rfl

/-- The packet a slot sends does not carry the address (R234, R242, R244). -/
theorem slotPacket_hidePeer (x : Slot) (flags : Word16) : slotPacket (hidePeer x) flags = slotPacket x flags := rfl

/-- The answer to a FIN (R244, R245). -/
theorem hideSlotPeers_answerFin (i : Nat) (s : State) :
    hideSlotPeers (answerFin i s) = answerFin i (hideSlotPeers s) := by
  unfold answerFin
  rw [hideSlotPeers_slot, slotPacket_hidePeer, hideSlotPeers_params, replyTx_hideSlotPeers]
  rcases replyTx i (slotPacket (s.slot i) (flagsAck s.params)) s with ⟨_ | _, t⟩
  · dsimp only
    rw [hideSlotPeers_slot, slotPacket_hidePeer, hideSlotPeers_params, replyTx_hideSlotPeers]
    rcases replyTx i (slotPacket (t.slot i) t.params.rspFinFlags) t with ⟨_ | _, u⟩
    · exact hideSlotPeers_markFin i u
    · rfl
  · rfl

/-- The write of a new slot stores the sender's address, which is blanked with the rest (R43, R234). -/
theorem hideSlotPeers_openSlot (i : Nat) (seq : Word32) (s : State) :
    hideSlotPeers (openSlot i seq (hideSlotPeers s)) = hideSlotPeers (openSlot i seq s) := by
  have write : ∀ u, hideSlotPeers (openSlot i seq u) =
      emit (.sinkOpen (BitVec.ofNat 16 (i + 1)))
        ((hideSlotPeers (takeDraw u)).setSlot i (hidePeer (newSlot i seq u))) := fun u => by
    rw [← hideSlotPeers_setSlot]; rfl
  have draw : hideSlotPeers (takeDraw (hideSlotPeers s)) = hideSlotPeers (takeDraw s) := hideSlotPeers_idem (takeDraw s)
  rw [write, write, draw]
  rfl

/-! ### The packets at the responder -/

/-- DATA or ACK (R236 to R242). -/
theorem hideSlotPeers_responderData (pureAck : Bool) (seq ack : Word32) (id : Word16) (b : List Byte) (s : State) :
    hideSlotPeers (responderData pureAck seq ack id b s) = responderData pureAck seq ack id b (hideSlotPeers s) := by
  unfold responderData
  rw [lookupSlot_hideSlotPeers]
  cases lookupSlot s id with
  | none => rfl
  | some i =>
    dsimp only
    rw [hideSlotPeers_slot, hidePeer_finObserved, ← hideSlotPeers_stampSlot]
    split
    · unfold closingSlot
      rw [← hideSlotPeers_closeSink, ← hideSlotPeers_freeSlot]
      cases pureAck <;> rfl
    · unfold openSlotPacket acknowledge
      rw [← hideSlotPeers_deliver, ← hideSlotPeers_reconcile, hideSlotPeers_slot, slotPacket_hidePeer,
        hideSlotPeers_params, replyTx_hideSlotPeers]

/-- A FIN (R243 to R245). -/
theorem hideSlotPeers_responderFin (seq : Word32) (id : Word16) (s : State) :
    hideSlotPeers (responderFin seq id s) = responderFin seq id (hideSlotPeers s) := by
  unfold responderFin
  rw [lookupSlot_hideSlotPeers]
  cases lookupSlot s id with
  | none => rfl
  | some i =>
    dsimp only
    rw [hideSlotPeers_answerFin, hideSlotPeers_advanceFin, hideSlotPeers_stampSlot]

/-- A SYN (R233 to R235): the two next states differ at most in the address stored. -/
theorem hideSlotPeers_responderSyn (seq : Word32) (s : State) :
    hideSlotPeers (responderSyn seq (hideSlotPeers s)) = hideSlotPeers (responderSyn seq s) := by
  unfold responderSyn
  rw [findCandidate_hideSlotPeers]
  cases findCandidate s with
  | none => exact hideSlotPeers_idem (drop .tblFull s)
  | some i =>
    have reclaim : reclaimSlot i (hideSlotPeers s) = hideSlotPeers (reclaimSlot i s) := by
      unfold reclaimSlot
      rw [hideSlotPeers_slot, hidePeer_inUse, ← hideSlotPeers_closeSink]
      split <;> rfl
    have opened := hideSlotPeers_openSlot i seq (reclaimSlot i s)
    rw [← reclaim] at opened
    have replied : ∀ t, hideSlotPeers (replyTx i (slotPacket (t.slot i) (flagsSynAck t.params)) t).2 =
        (replyTx i (slotPacket ((hideSlotPeers t).slot i) (flagsSynAck (hideSlotPeers t).params))
          (hideSlotPeers t)).2 :=
      fun t => by rw [hideSlotPeers_slot, slotPacket_hidePeer, hideSlotPeers_params, replyTx_hideSlotPeers]
    dsimp only [allocateSlot]
    rw [replied, replied, opened]

/-! ### Every packet -/

/-- The arrival of a packet whose two handlers do not read the stored addresses. -/
theorem arrive_hideSlotPeers {f g : State → State} {s t : State}
    (hf : ∀ u, hideSlotPeers (f u) = f (hideSlotPeers u))
    (hg : hideSlotPeers (g (hideSlotPeers s)) = hideSlotPeers (g s)) (h : arrive f g s = .next t) :
    ∃ u, arrive f g (hideSlotPeers s) = .next u ∧ hideSlotPeers u = hideSlotPeers t := by
  cases hr : s.role with
  | responder =>
    rw [arrive_responder hr] at h
    cases h
    exact ⟨_, arrive_responder hr, hg⟩
  | initiator =>
    cases ha : s.c.state.active with
    | false =>
      rw [arrive_initiator_inactive hr ha] at h
      cases h
      exact ⟨_, arrive_initiator_inactive hr ha, hideSlotPeers_idem s⟩
    | true =>
      rw [arrive_initiator_active hr ha] at h
      cases h
      refine ⟨_, arrive_initiator_active hr ha, ?_⟩
      exact (congrArg hideSlotPeers (hf (s.setC { s.c with lastActivity := s.now })).symm).trans (hideSlotPeers_idem _)

/-- An operation that commutes with blanking gives next states that differ at most in stored addresses. -/
theorem hideSlotPeers_of_commutes {g : State → State} {s : State} (h : hideSlotPeers (g s) = g (hideSlotPeers s)) :
    hideSlotPeers (g (hideSlotPeers s)) = hideSlotPeers (g s) := by
  rw [← h, hideSlotPeers_idem]

/-- Dropping a packet does not look at the table (R319). -/
theorem hideSlotPeers_drop (b : StickyBit) (s : State) : hideSlotPeers (drop b s) = drop b (hideSlotPeers s) := rfl

/-- Executing a packet in the blanked state. -/
theorem exec_hideSlotPeers {i : Instr} {s t : State} (h : exec i s = .next t) :
    ∃ u, exec i (hideSlotPeers s) = .next u ∧ hideSlotPeers u = hideSlotPeers t := by
  cases i with
  | data =>
    exact arrive_hideSlotPeers (hideSlotPeers_drop _)
      (hideSlotPeers_of_commutes (hideSlotPeers_responderData ..)) h
  | fin =>
    exact arrive_hideSlotPeers (hideSlotPeers_initiatorFin _ _ _)
      (hideSlotPeers_of_commutes (hideSlotPeers_responderFin ..)) h
  | syn => exact arrive_hideSlotPeers (hideSlotPeers_drop _) (hideSlotPeers_responderSyn ..) h
  | ack =>
    exact arrive_hideSlotPeers (hideSlotPeers_initiatorAck _)
      (hideSlotPeers_of_commutes (hideSlotPeers_responderData ..)) h
  | finack =>
    exact arrive_hideSlotPeers (hideSlotPeers_initiatorFin _ _ _) (hideSlotPeers_of_commutes (hideSlotPeers_drop _ s)) h
  | synack =>
    exact arrive_hideSlotPeers (hideSlotPeers_initiatorSynack _ _ _)
      (hideSlotPeers_of_commutes (hideSlotPeers_drop _ s)) h

/-- Settles O47 (R43, R81, R253): both runs differ at most in stored addresses from the run of the blanked state. -/
theorem storedPeerAddressIsNeverRead : Obligations.StoredPeerAddressIsNeverRead := by
  intro i s s' t t' hs h h'
  obtain ⟨u, hu, e⟩ := exec_hideSlotPeers h
  obtain ⟨u', hu', e'⟩ := exec_hideSlotPeers h'
  rw [hs, hu'] at hu
  cases hu
  exact e.symm.trans e'

end Sys2Proof.Machine
end

section
/-! The translation of a connection id to a slot (R80, R236), and the source bytes as a memory (R70). -/

namespace Sys2Proof.Machine

/-! ### Connection ids -/

/-- In a table that meets its invariants a slot in use holds the id above its index (R42). -/
theorem TableInv.connId_of_inUse {s : State} (h : TableInv s) {i : Nat} (hi : i < s.slots.length)
    (used : (s.slot i).inUse = true) : (s.slot i).connId.toNat = i + 1 := by
  obtain ⟨id, -⟩ := (h.2 i hi).2 used
  exact id

/-- `lookup(id)` finds some slot when a slot of the table in use has the id (R236). -/
theorem exists_lookupSlot_of_inUse {s : State} {n : Nat} (hn : n < s.slots.length) (used : (s.slot n).inUse = true) :
    ∃ m, lookupSlot s (s.slot n).connId = some m := by
  cases hl : lookupSlot s (s.slot n).connId with
  | some m => exact ⟨m, rfl⟩
  | none =>
    have mem : s.slot n ∈ s.slots := State.slot_of_lt hn ▸ List.getElem_mem hn
    exact absurd rfl (lookupSlot_eq_none_iff.mp hl _ mem used)

/-- What `lookup(id)` finds, in a table that meets its invariants (R80, R236). -/
theorem TableInv.of_lookupSlot {s : State} (h : TableInv s) {id : Word16} {n : Nat} (hl : lookupSlot s id = some n) :
    id.toNat = n + 1 ∧ n < s.params.nSlots ∧ (s.slot n).inUse = true := by
  obtain ⟨hn, used, rfl⟩ := lookupSlot_some hl
  exact ⟨h.connId_of_inUse hn used, h.1 ▸ hn, used⟩

/-- Settles O15 (R80): the slots in use have different ids, so the one that `lookup(id)` finds is the one below the
id. -/
theorem idTranslatesToSlotBelow : Obligations.IdTranslatesToSlotBelow := by
  intro s id n _ hs
  refine ⟨hs.of_lookupSlot, fun ⟨hid, hn, used⟩ => ?_⟩
  have hn : n < s.slots.length := hs.1.symm ▸ hn
  have sameId : (s.slot n).connId = id := BitVec.eq_of_toNat_eq ((hs.connId_of_inUse hn used).trans hid.symm)
  obtain ⟨m, hm⟩ := exists_lookupSlot_of_inUse hn used
  rw [sameId] at hm
  obtain ⟨hid', -⟩ := hs.of_lookupSlot hm
  have : m = n := by omega
  rw [hm, this]

/-! ### The source bytes -/

/-- Settles O54 (R70, log 3): a write keeps the list rising and free of the fill, so the byte at an address is listed at
most once. -/
theorem sourceWriteThenRead : Obligations.SourceWriteThenRead :=
  fun m _ _ hm ha => ⟨Memory.write_wf hm ha, Memory.read_write_same hm, fun _ => Memory.read_write_other m⟩

end Sys2Proof.Machine
end

section
/-! The fields of a decoded packet as numbers (R101, R103), and the kind of a packet as a table of flags values (R106,
R107). -/

namespace Sys2Proof

/-! ### Fields -/

/-- A 32-bit field as the big-endian number of its four bytes (R7, R103). -/
theorem toNat_eq_bytes32 (v : Word32) :
    v.toNat =
      2 ^ 24 * (v.extractLsb' 24 8).toNat + 2 ^ 16 * (v.extractLsb' 16 8).toNat + 2 ^ 8 * (v.extractLsb' 8 8).toNat +
        (v.extractLsb' 0 8).toNat := by
  rw [← joinBe32_toNat, joinBe32_split]

/-- A 16-bit field as the big-endian number of its two bytes (R7, R103). -/
theorem toNat_eq_bytes16 (v : Word16) :
    v.toNat = 256 * (v.extractLsb' 8 8).toNat + (v.extractLsb' 0 8).toNat := by
  rw [← joinBe16_toNat, joinBe16_split]

/-- The payload of a packet stands behind the twelve header bytes (R101, R104). -/
theorem packetBytes_drop_header (k : Packet) : (packetBytes k).drop 12 = k.payload := rfl

/-- Settles O4 (R103, R104, R110, R133): a datagram that decodes is the bytes of its packet, in which each field stands
at its offset. -/
theorem decodeReadsBigEndianFields : Obligations.DecodeReadsBigEndianFields := by
  intro q hq
  have header := hq.hdrLen_eq
  refine ⟨header, decodePacket_eq_none_iff header, fun d k h => ?_⟩
  obtain rfl := decodePacket_eq_some header h
  refine ⟨toNat_eq_bytes32 k.seq, toNat_eq_bytes32 k.ack, toNat_eq_bytes16 k.connId, toNat_eq_bytes16 k.flags, ?_, ?_⟩
  · rw [header, packetBytes_drop_header]
  · rw [header, packetBytes_length, Nat.add_sub_cancel_left]

/-! ### Kinds -/

/-- The flags value of each listed kind (R106). -/
def kindFlags (q : Params) : Kind → Option Word16
  | .data => some flagsData
  | .fin => some (flagsFin q)
  | .syn => some (flagsSyn q)
  | .ack => some (flagsAck q)
  | .finack => some (flagsFinAck q)
  | .synack => some (flagsSynAck q)
  | .rsvd => none

/-- A listed kind is given only to its own flags value (R107). -/
theorem kindFlags_kindOf (q : Params) (f : Word16) :
    kindOf q f = .rsvd ∨ kindFlags q (kindOf q f) = some f := by
  unfold kindOf
  split_ifs with data fin syn ack finack synack
  · exact .inr (congrArg some data.symm)
  · exact .inr (congrArg some fin.symm)
  · exact .inr (congrArg some syn.symm)
  · exact .inr (congrArg some ack.symm)
  · exact .inr (congrArg some finack.symm)
  · exact .inr (congrArg some synack.symm)
  · exact .inl rfl

/-- The six listed flags values are pairwise different. -/
def FlagsDistinct (q : Params) : Prop :=
  [flagsData, flagsFin q, flagsSyn q, flagsAck q, flagsFinAck q, flagsSynAck q].Nodup

/-- A flags value has the kind it is listed under: none of the values tested before it is the same (R107). -/
theorem kindOf_of_kindFlags {q : Params} (h : FlagsDistinct q) {kind : Kind} {f : Word16}
    (hf : kindFlags q kind = some f) : kindOf q f = kind := by
  simp only [FlagsDistinct, List.nodup_cons, List.mem_cons, List.not_mem_nil, or_false, not_or] at h
  obtain ⟨⟨dataFin, dataSyn, dataAck, dataFinAck, dataSynAck⟩, ⟨finSyn, finAck, finFinAck, finSynAck⟩,
    ⟨synAck, synFinAck, synSynAck⟩, ⟨ackFinAck, ackSynAck⟩, finAckSynAck, -⟩ := h
  unfold kindOf
  cases kind with
  | data => cases hf; rw [if_pos rfl]
  | fin => cases hf; rw [if_neg (Ne.symm dataFin), if_pos rfl]
  | syn => cases hf; rw [if_neg (Ne.symm dataSyn), if_neg (Ne.symm finSyn), if_pos rfl]
  | ack => cases hf; rw [if_neg (Ne.symm dataAck), if_neg (Ne.symm finAck), if_neg (Ne.symm synAck), if_pos rfl]
  | finack =>
    cases hf
    rw [if_neg (Ne.symm dataFinAck), if_neg (Ne.symm finFinAck), if_neg (Ne.symm synFinAck),
      if_neg (Ne.symm ackFinAck), if_pos rfl]
  | synack =>
    cases hf
    rw [if_neg (Ne.symm dataSynAck), if_neg (Ne.symm finSynAck), if_neg (Ne.symm synSynAck),
      if_neg (Ne.symm ackSynAck), if_neg (Ne.symm finAckSynAck), if_pos rfl]
  | rsvd => cases hf

/-- A packet is of a listed kind exactly when its flags have that kind's value (R107). -/
theorem kindOf_eq_iff {q : Params} (h : FlagsDistinct q) {kind : Kind} {w : Word16} (hw : kindFlags q kind = some w)
    (f : Word16) : kindOf q f = kind ↔ f = w := by
  constructor
  · intro hf
    have listed := kindFlags_kindOf q f
    rw [hf, hw] at listed
    rcases listed with rfl | e
    · cases hw
    · exact (Option.some.inj e).symm
  · rintro rfl
    exact kindOf_of_kindFlags h hw

/-- A flags value that no kind is listed with is reserved (R108). -/
theorem kindOf_eq_rsvd {q : Params} {f : Word16} (h : ∀ kind, kindFlags q kind ≠ some f) : kindOf q f = .rsvd :=
  (kindFlags_kindOf q f).resolve_right (h _)

/-- With the flag bits of R5 and R102 the listed values are those of R106. -/
theorem kindFlags_of_defaults {q : Params} (fin : q.flagFin = 1) (syn : q.flagSyn = 2) (ack : q.flagAck = 4)
    (kind : Kind) :
    kindFlags q kind = kindFlags Params.default kind := by
  cases kind <;> simp only [kindFlags, flagsFin, flagsSyn, flagsAck, flagsFinAck, flagsSynAck, fin, syn, ack] <;> rfl

/-- The six values of R106 are pairwise different. -/
theorem flagsDistinct_of_defaults {q : Params} (fin : q.flagFin = 1) (syn : q.flagSyn = 2) (ack : q.flagAck = 4) :
    FlagsDistinct q := by
  unfold FlagsDistinct flagsFin flagsSyn flagsAck flagsFinAck flagsSynAck
  rw [fin, syn, ack]
  decide

/-- The instruction of a packet of a given kind, with the packet's operands (R136). -/
def instrOfKind (k : Packet) : Kind → Option Instr
  | .data => some (.data k.seq k.ack k.connId k.payload)
  | .fin => some (.fin k.seq k.ack k.connId k.payload)
  | .syn => some (.syn k.seq k.ack k.connId k.payload)
  | .ack => some (.ack k.seq k.ack k.connId k.payload)
  | .finack => some (.finack k.seq k.ack k.connId k.payload)
  | .synack => some (.synack k.seq k.ack k.connId k.payload)
  | .rsvd => none

/-- Classification looks at the kind alone (R107, R136). -/
theorem classifyPacket_eq_instrOfKind (q : Params) (k : Packet) :
    classifyPacket q k = instrOfKind k (kindOf q k.flags) := by
  unfold classifyPacket
  cases kindOf q k.flags <;> rfl

/-- Settles O5 (R102, R106, R107; log 4): the six listed values are pairwise different under the flag bits of R5 and
under any well-formed ones, so each is the value of one kind. -/
theorem classificationIsByEqualityOfFlags : Obligations.ClassificationIsByEqualityOfFlags := by
  refine ⟨fun q k fin syn ack => ?_, fun q f hq => ?_⟩
  · have flags := kindFlags_of_defaults fin syn ack
    have listed : ∀ {kind w}, kindFlags Params.default kind = some w → k.flags = w →
        kindOf q k.flags = kind ∧ classifyPacket q k = instrOfKind k kind := fun {kind} _ hw hk => by
      have e := (kindOf_eq_iff (flagsDistinct_of_defaults fin syn ack) ((flags kind).trans hw) _).mpr hk
      exact ⟨e, by rw [classifyPacket_eq_instrOfKind, e]⟩
    refine ⟨listed rfl, listed rfl, listed rfl, listed rfl, listed rfl, listed rfl,
      fun data fin syn ack finack synack => ?_⟩
    have rsvd : kindOf q k.flags = .rsvd := kindOf_eq_rsvd fun kind => by
      rw [flags]
      cases kind with
      | data => exact fun h => data (Option.some.inj h).symm
      | fin => exact fun h => fin (Option.some.inj h).symm
      | syn => exact fun h => syn (Option.some.inj h).symm
      | ack => exact fun h => ack (Option.some.inj h).symm
      | finack => exact fun h => finack (Option.some.inj h).symm
      | synack => exact fun h => synack (Option.some.inj h).symm
      | rsvd => exact nofun
    exact ⟨rsvd, by rw [classifyPacket_eq_instrOfKind, rsvd]; rfl⟩
  · have listed : ∀ {kind w}, kindFlags q kind = some w → (kindOf q f = kind ↔ f = w) :=
      fun hw => kindOf_eq_iff hq.flags_distinct hw f
    exact ⟨listed rfl, listed rfl, listed rfl, listed rfl, listed rfl, listed rfl⟩

end Sys2Proof
end

section
/-! The operations an event issues, and which of them R113 and R287 allow. `OpAllowed` says it of one operation, read
off the state after the event; the trace predicates of the statements are read off it. -/

namespace Sys2Proof.Machine

/-! ### What an event adds to the trace -/

/-- The trace of `t` is that of `s` and then operations of which `P` holds (R11, R82). -/
def Issues (P : PortOp → Prop) (s t : State) : Prop :=
  ∃ ops, t.io.trace = s.io.trace ++ ops ∧ ∀ o ∈ ops, P o

section
variable {P Q : PortOp → Prop} {s t u : State}

/-- Nothing is issued. -/
theorem Issues.of_trace_eq (h : t.io.trace = s.io.trace) : Issues P s t := ⟨[], by rw [h, List.append_nil], nofun⟩

/-- One operation is issued. -/
theorem Issues.emit {o : PortOp} (h : P o) : Issues P s (emit o s) := ⟨[o], rfl, by simpa using h⟩

/-- A weaker property of the same operations. -/
theorem Issues.mono (h : Issues P s t) (imp : ∀ o, P o → Q o) : Issues Q s t := by
  obtain ⟨ops, htrace, hops⟩ := h
  exact ⟨ops, htrace, fun o ho => imp o (hops o ho)⟩

/-- Two stretches of operations. -/
theorem Issues.trans (h : Issues P s t) (g : Issues P t u) : Issues P s u := by
  obtain ⟨ops, htrace, hops⟩ := h
  obtain ⟨ops', htrace', hops'⟩ := g
  refine ⟨ops ++ ops', by rw [htrace', htrace, List.append_assoc], fun o ho => ?_⟩
  exact (List.mem_append.mp ho).elim (hops o) (hops' o)

/-- An operation issued under a condition. -/
theorem Issues.ite (h : Issues P s t) (c : Prop) [Decidable c] : Issues P s (if c then t else s) := by
  split
  · exact h
  · exact .of_trace_eq rfl

/-- The trace is only appended to. -/
theorem Issues.trace_eq (h : Issues P s t) : t.io.trace = s.io.trace ++ issuedOps s t := by
  obtain ⟨ops, htrace, -⟩ := h
  rw [issuedOps_of_trace htrace, htrace]

/-- What holds of every operation issued. -/
theorem Issues.of_mem (h : Issues P s t) : ∀ o ∈ issuedOps s t, P o := by
  obtain ⟨ops, htrace, hops⟩ := h
  rwa [issuedOps_of_trace htrace]

end

/-- Legal transmissions are those whose every datagram is legal (R113). -/
theorem legalTransmissions_iff (r : Role) (q : Params) (ops : List PortOp) :
    legalTransmissions r q ops = true ↔ ∀ d dest, .tx d dest ∈ ops → legalDatagram r q d = true := by
  induction ops with
  | nil => simp [legalTransmissions]
  | cons o rest ih =>
    cases o with
    | tx d dest =>
      simp only [legalTransmissions, Bool.and_eq_true, ih, List.mem_cons, PortOp.tx.injEq]
      refine ⟨fun ⟨hd, hrest⟩ d' dest' h => ?_, fun h => ⟨h d dest (.inl ⟨rfl, rfl⟩), fun d' dest' h' => ?_⟩⟩
      · rcases h with ⟨rfl, -⟩ | h
        · exact hd
        · exact hrest _ _ h
      · exact h d' dest' (.inr h')
    | sinkOpen | sinkWrite | sinkFlush | sinkClose | srcRead => simp [legalTransmissions, ih]

/-- Legal reads are those whose every read is a chunk inside the source (R287). -/
theorem legalReads_iff (q : Params) (n : Nat) (ops : List PortOp) :
    legalReads q n ops = true ↔
      ∀ off len, .srcRead off len ∈ ops → off % q.chunk = 0 ∧ 1 ≤ len ∧ len ≤ q.chunk ∧ off + len ≤ n := by
  induction ops with
  | nil => simp [legalReads]
  | cons o rest ih =>
    cases o with
    | srcRead off len =>
      simp only [legalReads, Bool.and_eq_true, decide_eq_true_eq, and_assoc, ih, List.mem_cons, PortOp.srcRead.injEq]
      refine ⟨fun ⟨hmod, hpos, hle, hend, hrest⟩ off' len' h => ?_, fun h => ?_⟩
      · rcases h with ⟨rfl, rfl⟩ | h
        · exact ⟨hmod, hpos, hle, hend⟩
        · exact hrest _ _ h
      · obtain ⟨hmod, hpos, hle, hend⟩ := h off len (.inl ⟨rfl, rfl⟩)
        exact ⟨hmod, hpos, hle, hend, fun off' len' h' => h off' len' (.inr h')⟩
    | tx | sinkOpen | sinkWrite | sinkFlush | sinkClose => simp [legalReads, ih]

/-! ### Which operations are allowed -/

/-- An operation that an event ending in `t` may have issued: a datagram of a row of R113 to the peer of that row, a
read of a chunk of the source (R287), or any sink operation. -/
def OpAllowed (t : State) : PortOp → Prop
  | .tx d dest =>
    ∃ k, d = packetBytes k ∧ legalDatagram t.role t.params d = true ∧
      (t.role = .initiator → dest = t.c.peerAddr ∧ InitiatorTransmits t k) ∧
      (t.role = .responder → dest = t.rxp.peer ∧ ResponderTransmits t k)
  | .srcRead off len =>
    off % t.params.chunk = 0 ∧ 1 ≤ len ∧ len ≤ t.params.chunk ∧ off + len ≤ t.c.srcLen.toNat
  | .sinkOpen _ => True
  | .sinkWrite _ _ => True
  | .sinkFlush _ => True
  | .sinkClose _ => True

/-- Everything issued from `s` to `t` is allowed. -/
abbrev IssuesAllowed (s t : State) : Prop := Issues (OpAllowed t) s t

/-- The datagram of a packet within the bounds of R113 and of a row of the initiator is legal. -/
theorem legalDatagram_initiator {q : Params} {k : Packet} (hq : q.Wf) (seq : k.seq.toNat < q.maxSeq)
    (ack : k.ack.toNat < q.maxSeq) (fits : k.payload.length ≤ q.maxPayload) (row : initiatorRow q k = true) :
    legalDatagram .initiator q (packetBytes k) = true := by
  simp [legalDatagram, decodePacket_packetBytes hq.hdrLen_eq, seq, ack, fits, row]

/-- The datagram of a packet within the bounds of R113 and of a row of the responder is legal. -/
theorem legalDatagram_responder {q : Params} {k : Packet} (hq : q.Wf) (seq : k.seq.toNat < q.maxSeq)
    (ack : k.ack.toNat < q.maxSeq) (fits : k.payload.length ≤ q.maxPayload) (row : responderRow q k = true) :
    legalDatagram .responder q (packetBytes k) = true := by
  simp [legalDatagram, decodePacket_packetBytes hq.hdrLen_eq, seq, ack, fits, row]

/-- A packet sent by the initiator. -/
theorem opAllowed_initiator {t : State} {k : Packet} (hr : t.role = .initiator)
    (legal : legalDatagram .initiator t.params (packetBytes k) = true) (row : InitiatorTransmits t k) :
    OpAllowed t (.tx (packetBytes k) t.c.peerAddr) :=
  ⟨k, rfl, by rw [hr]; exact legal, fun _ => ⟨rfl, row⟩, fun h => absurd (hr.symm.trans h) nofun⟩

/-- A packet sent by the responder. -/
theorem opAllowed_responder {t : State} {k : Packet} (hr : t.role = .responder)
    (legal : legalDatagram .responder t.params (packetBytes k) = true) (row : ResponderTransmits t k) :
    OpAllowed t (.tx (packetBytes k) t.rxp.peer) :=
  ⟨k, rfl, by rw [hr]; exact legal, fun h => absurd (hr.symm.trans h) nofun, fun _ => ⟨rfl, row⟩⟩

/-! ### Transmission -/

/-- `Tx(ENCODE(k), dest)` hands over the bytes of `k` or nothing (R131, R132, R284). -/
theorem transmit_issues (k : Packet) (dest : Nat) (s : State) :
    Issues (· = .tx (packetBytes k) dest) s (transmit k dest s).2 := by
  by_cases fits : k.payload.length ≤ s.params.maxPayload
  · rw [transmit_fits fits]
    exact ⟨[.tx (packetBytes k) dest], rfl, by simp⟩
  · rw [transmit_refused (Nat.not_le.mp fits)]
    exact .of_trace_eq rfl

/-- `tx_or_die` sends to the peer of `C` (R204). -/
theorem txOrDie_issues (k : Packet) (s : State) :
    Issues (· = .tx (packetBytes k) s.c.peerAddr) s (txOrDie k s) := by
  have sent := transmit_issues k s.c.peerAddr s
  unfold txOrDie
  split
  · rename_i t h; rwa [h] at sent
  · rename_i t h; rw [h] at sent; exact sent

end Sys2Proof.Machine
end

section
/-! The initiator's datagrams and source reads (R113, R184, R198, R287). -/

namespace Sys2Proof.Machine

/-! ### The rows of the initiator -/

section
variable {q : Params} {k : Packet}

/-- The DATA row (R113). -/
theorem initiatorRow_data (hq : q.Wf) (flags : k.flags = flagsData) (payload : 1 ≤ k.payload.length) :
    initiatorRow q k = true := by
  have kind : kindOf q k.flags = .data := flags ▸ kindOf_of_kindFlags hq.flags_distinct rfl
  simpa [initiatorRow, kind] using List.ne_nil_of_length_pos payload

/-- The FIN row (R113). -/
theorem initiatorRow_fin (hq : q.Wf) (flags : k.flags = flagsFin q) (payload : k.payload = []) (ack : k.ack = 0) :
    initiatorRow q k = true := by
  have kind : kindOf q k.flags = .fin := flags ▸ kindOf_of_kindFlags hq.flags_distinct rfl
  simp [initiatorRow, kind, payload, ack]

/-- The SYN row (R113). -/
theorem initiatorRow_syn (hq : q.Wf) (flags : k.flags = flagsSyn q) (payload : k.payload = []) (ack : k.ack = 0)
    (id : k.connId = 0) : initiatorRow q k = true := by
  have kind : kindOf q k.flags = .syn := flags ▸ kindOf_of_kindFlags hq.flags_distinct rfl
  simp [initiatorRow, kind, payload, ack, id]

/-- The ACK row (R113). -/
theorem initiatorRow_ack (hq : q.Wf) (flags : k.flags = flagsAck q) (payload : k.payload = []) :
    initiatorRow q k = true := by
  have kind : kindOf q k.flags = .ack := flags ▸ kindOf_of_kindFlags hq.flags_distinct rfl
  simp [initiatorRow, kind, payload]

end

/-! ### What transmission leaves of the fields the rows read -/

/-- What sending leaves of the two records, the connection being closed or not (R204, R205). -/
structure SendStands (u t : State) : Prop extends EventFrame u t where
  c : ∃ state result, t.c = { u.c with state := state, result := result }
  p : ∃ valid, t.p = { u.p with valid := valid }

/-- Both ways a transmission can end leave these fields. -/
theorem SendStands.of_cases {s t u : State} (event : EventFrame s t) (f : SendFrame s u)
    (h : t = u ∨ t = closeConn .errTransport u) : SendStands s t := by
  refine ⟨event, ?_, ?_⟩ <;> rcases h with rfl | rfl
  · exact ⟨s.c.state, s.c.result, f.c⟩
  · exact ⟨.closed, .errTransport, by rw [closeConn_c, f.c]⟩
  · exact ⟨s.p.valid, f.p⟩
  · exact ⟨false, by rw [closeConn_p, f.p]⟩

/-- `tx_or_die` (R204). -/
theorem txOrDie_stands (k : Packet) (s : State) : SendStands s (txOrDie k s) := by
  obtain ⟨u, f, h⟩ := txOrDie_cases k s
  exact .of_cases (txOrDie_frame k s).toEventFrame f h

/-- Sending the outstanding packet (R184). -/
theorem sendPending_stands (s : State) : SendStands s (sendPending s) := by
  obtain ⟨u, f, h⟩ := sendPending_cases s
  exact .of_cases (sendPending_frame s).toEventFrame f (h.imp id And.right)

/-- What is allowed before the transmission of an initiator is allowed after it: a row reads no other field. -/
theorem SendStands.opAllowed {u t : State} (h : SendStands u t) (hr : u.role = .initiator) {o : PortOp}
    (ho : OpAllowed u o) : OpAllowed t o := by
  obtain ⟨_, _, hc⟩ := h.c
  obtain ⟨_, hp⟩ := h.p
  have role : t.role = u.role := by rw [State.role_eq, h.straps, State.role_eq]
  cases o with
  | tx d dest =>
    obtain ⟨k, hd, legal, row, -⟩ := ho
    refine ⟨k, hd, by rwa [role, h.params], fun _ => ?_, fun h => by rw [role, hr] at h; cases h⟩
    obtain ⟨hdest, row⟩ := row hr
    unfold InitiatorTransmits chunkLen at row ⊢
    rw [h.params, hc, hp, h.src, h.rxp]
    exact ⟨hdest, row⟩
  | srcRead off len =>
    unfold OpAllowed at ho ⊢
    rw [h.params, hc]
    exact ho
  | sinkOpen | sinkWrite | sinkFlush | sinkClose => trivial

/-! ### The outstanding packet -/

/-- What R34 says of the outstanding packet where there is one: its numbers are in range and those of its row, and in
ESTABLISHED a chunk of the source is left at the offset. -/
structure Outstanding (s : State) : Prop where
  seq : s.p.seq = s.c.localSeq
  seqLt : s.c.localSeq.toNat < s.params.maxSeq
  ackLt : s.p.ack.toNat < s.params.maxSeq
  ackZero : s.c.state = .synSent ∨ s.c.state = .finSent → s.p.ack = 0
  ackExpected : s.c.state = .established → s.p.ack = s.c.peerAckExpected
  offsetLt : s.c.state = .established → s.p.sourceOffset.toNat < s.c.srcLen.toNat
  offsetMod : s.c.state = .established → s.p.sourceOffset.toNat % s.params.chunk = 0

/-- The invariants say it of every state that has an outstanding packet. -/
theorem InitiatorInv.outstanding {s : State} (hs : InitiatorInv s) (sending : s.c.state.sending = true) :
    Outstanding s := by
  obtain ⟨seqLt, -, ackLt, -, seq, ackZero, ackExpected, -, offsetLt, -, offsetMod, -⟩ := hs
  exact ⟨seq sending, seqLt, ackLt, ackZero, ackExpected, offsetLt, offsetMod⟩

/-- A chunk holds a byte while the offset is inside the source, and at most `CHUNK` bytes, all of the source (R185). -/
theorem chunkLen_bounds {s : State} (hq : s.params.Wf) (h : s.p.sourceOffset.toNat < s.c.srcLen.toNat) :
    1 ≤ chunkLen s ∧ chunkLen s ≤ s.params.chunk ∧ s.p.sourceOffset.toNat + chunkLen s ≤ s.c.srcLen.toNat := by
  obtain ⟨-, -, payload, -, -, -, chunk, -⟩ := hq
  unfold chunkLen
  omega

/-- The packet that R184 rebuilds is of a row of R113. -/
theorem Outstanding.packet_allowed {s : State} (h : Outstanding s) (hr : s.role = .initiator) (hq : s.params.Wf)
    {k : Packet} (hk : pendingPacket s = some k) : OpAllowed s (.tx (packetBytes k) s.c.peerAddr) := by
  have seqLt : s.p.seq.toNat < s.params.maxSeq := h.seq ▸ h.seqLt
  unfold pendingPacket at hk
  cases hst : s.c.state with
  | synSent =>
    simp only [hst, Option.some.injEq] at hk
    subst hk
    have ack := h.ackZero (.inl hst)
    refine opAllowed_initiator hr ?_ (.inl (by rw [ack]; rfl))
    exact legalDatagram_initiator hq seqLt h.ackLt (Nat.zero_le _) (initiatorRow_syn hq rfl rfl ack rfl)
  | established =>
    simp only [hst, Option.some.injEq] at hk
    subst hk
    obtain ⟨pos, -, -⟩ := chunkLen_bounds hq (h.offsetLt hst)
    refine opAllowed_initiator hr ?_ (.inr (.inl ⟨pos, by rw [h.seq, h.ackExpected hst]⟩))
    refine legalDatagram_initiator hq seqLt h.ackLt ?_ (initiatorRow_data hq rfl ?_) <;>
      simp only [Memory.readBytes_length]
    · exact chunkLen_le hq
    · exact pos
  | finSent =>
    simp only [hst, Option.some.injEq] at hk
    subst hk
    have ack := h.ackZero (.inr hst)
    refine opAllowed_initiator hr ?_ (.inr (.inr (.inl (by rw [h.seq, ack]; rfl))))
    exact legalDatagram_initiator hq seqLt h.ackLt (Nat.zero_le _) (initiatorRow_fin hq rfl rfl ack)
  | idle | linger | closed => simp only [hst] at hk; cases hk

/-- The source read of a transmission is one R287 allows. -/
theorem Outstanding.read_issues {s : State} (h : Outstanding s) (hq : s.params.Wf) :
    Issues (OpAllowed s) s (noteSrcRead s) := by
  unfold noteSrcRead
  split
  · rename_i hst
    exact .emit ⟨h.offsetMod hst, chunkLen_bounds hq (h.offsetLt hst)⟩
  · exact .of_trace_eq rfl

/-- Sending the outstanding packet issues only what is allowed (R184, R204). -/
theorem sendPending_issues {s : State} (hr : s.role = .initiator) (hq : s.params.Wf)
    (h : s.c.state.sending = true → Outstanding s) : IssuesAllowed s (sendPending s) := by
  refine Issues.mono (P := OpAllowed s) ?_ fun o ho => (sendPending_stands s).opAllowed hr ho
  unfold sendPending
  cases hk : pendingPacket s with
  | none => exact .of_trace_eq rfl
  | some k =>
    have out := h (by rw [← pendingPacket_isSome, hk]; rfl)
    refine (out.read_issues hq).trans ((txOrDie_issues k _).mono ?_)
    rintro o rfl
    rw [(noteSrcRead_output s).c]
    exact out.packet_allowed hr hq hk

/-- Sending it once more (R169). -/
theorem resendPending_issues {s : State} (hs : InitiatorInv s) (hr : s.role = .initiator) (hq : s.params.Wf) :
    IssuesAllowed s (resendPending s) :=
  sendPending_issues (s := s.setP { s.p with sendTime := s.now }) hr hq (InitiatorInv.outstanding hs)

/-- `send_next(off)` issues only what is allowed (R190). -/
theorem ReadyToSend.sendNext_issues {off : Word32} {s : State} (h : ReadyToSend off s) (hr : s.role = .initiator)
    (hq : s.params.Wf) : IssuesAllowed s (sendNext off s) := by
  rcases sendNext_cases off s with ⟨-, e⟩ | ⟨more, e⟩ <;> rw [e]
  · refine sendPending_issues (s := enterFinSent off s) hr hq fun _ => ?_
    refine ⟨rfl, h.localSeq, Nat.zero_lt_of_lt h.localSeq, fun _ => rfl, ?_, ?_, ?_⟩ <;> simp [enterFinSent]
  · have lt : off.toNat < s.c.srcLen.toNat := lt_of_le_of_ne h.offset fun e => more (BitVec.eq_of_toNat_eq e)
    refine sendPending_issues (s := armPending s.c.peerAckExpected off s) hr hq fun _ => ?_
    exact ⟨rfl, h.localSeq, h.peerAck, by simp [h.state], fun _ => rfl, fun _ => lt, fun _ => h.chunked more⟩

/-! ### The initiator's rules -/

section
variable {s : State}

/-- The start of a transfer (R186). -/
theorem startTransfer_issues (hr : s.role = .initiator) (hq : s.params.Wf) :
    IssuesAllowed s (startTransfer s) := by
  unfold startTransfer
  split
  · exact .of_trace_eq rfl
  · have isn := isnOf_lt hq (drawValue s)
    refine sendPending_issues (s := armPending 0 0 ((takeDraw s).setC _)) hr hq fun _ => ?_
    exact ⟨rfl, isn, Nat.zero_lt_of_lt isn, fun _ => rfl, nofun, nofun, nofun⟩

/-- After an accepted SYNACK the whole source is to be sent (R189). -/
theorem InitiatorInv.ready_of_synack (hs : InitiatorInv s) (hq : s.params.Wf) (hst : s.c.state = .synSent)
    (seq : Word32) (id : Word16) :
    ReadyToSend 0
      (s.setC
        { s.c with
          localSeq := addSeq s.params s.c.localSeq 1, peerAckExpected := addSeq s.params seq 1, connId := id,
          state := .established }) := by
  have size := hs.size_checked (by simp [hst]) (by simp [hst])
  obtain ⟨-, -, -, -, -, -, -, -, -, -, -, -, result, -⟩ := hs
  exact ⟨rfl, addSeq_lt hq _ _, addSeq_lt hq _ _, Nat.zero_le _, fun _ => Nat.zero_mod _, result (by simp [hst]),
    size⟩

/-- After an acknowledged chunk the source from the next offset on is to be sent (R191). -/
theorem InitiatorInv.ready_of_ack (hs : InitiatorInv s) (hq : s.params.Wf) (hst : s.c.state = .established) :
    ReadyToSend (nextOffset s) (s.setC { s.c with localSeq := addSeq s.params s.c.localSeq (chunkLen s) }) := by
  have size := hs.size_checked (by simp [hst]) (by simp [hst])
  obtain ⟨-, peerAck, -, -, -, -, -, offLe, -, -, offMod, -, result, -⟩ := hs
  exact ⟨hst, addSeq_lt hq _ _, peerAck, nextOffset_le offLe, nextOffset_mod_chunk offLe (offMod hst),
    result (by simp [hst]), size⟩

/-- A SYNACK (R188, R189). -/
theorem initiatorSynack_issues (hs : InitiatorInv s) (hr : s.role = .initiator) (hq : s.params.Wf)
    (seq ack : Word32) (id : Word16) : IssuesAllowed s (initiatorSynack seq ack id s) := by
  cases hst : s.c.state with
  | synSent =>
    simp only [initiatorSynack, hst]
    split
    · rename_i expected
      subst expected
      exact (hs.ready_of_synack hq hst seq id).sendNext_issues hr hq
    · exact .of_trace_eq rfl
  | idle | established | finSent | linger | closed => simp only [initiatorSynack, hst]; exact .of_trace_eq rfl

/-- An ACK (R191, R192). -/
theorem initiatorAck_issues (hs : InitiatorInv s) (hr : s.role = .initiator) (hq : s.params.Wf) (ack : Word32) :
    IssuesAllowed s (initiatorAck ack s) := by
  cases hst : s.c.state with
  | established =>
    simp only [initiatorAck, hst]
    split
    · exact (hs.ready_of_ack hq hst).sendNext_issues hr hq
    · exact resendPending_issues hs hr hq
  | idle | synSent | finSent | linger | closed => simp only [initiatorAck, hst]; exact .of_trace_eq rfl

/-- The acknowledgment of the peer FIN in `RXP` (R198). -/
theorem finalAck_issues (hr : s.role = .initiator) (hq : s.params.Wf) {seq : Word32} (hseq : s.rxp.seq = seq) :
    IssuesAllowed s (finalAck seq s) := by
  subst hseq
  refine (txOrDie_issues _ s).mono ?_
  rintro o rfl
  refine (txOrDie_stands _ s).opAllowed hr (opAllowed_initiator hr ?_ (.inr (.inr (.inr rfl))))
  exact legalDatagram_initiator hq (addSeq_lt hq _ _) (addSeq_lt hq _ _) (Nat.zero_le _) (initiatorRow_ack hq rfl rfl)

/-- A FIN or FINACK (R197, R200). -/
theorem initiatorFin_issues (hr : s.role = .initiator) (hq : s.params.Wf) (kind : Kind) {seq : Word32}
    (hseq : s.rxp.seq = seq) (ack : Word32) : IssuesAllowed s (initiatorFin kind seq ack s) := by
  cases hst : s.c.state with
  | finSent =>
    simp only [initiatorFin, hst]
    split
    · exact finalAck_issues
        (s := (s.setP { s.p with valid := false }).setC { s.c with state := .linger, lingerStart := s.now }) hr hq hseq
    · exact .of_trace_eq rfl
  | linger =>
    simp only [initiatorFin, hst]
    split
    · exact finalAck_issues hr hq hseq
    · exact .of_trace_eq rfl
  | idle | synSent | established | closed => simp only [initiatorFin, hst]; exact .of_trace_eq rfl

/-- The deadlines of a tick (R168). -/
theorem evalDeadlines_issues (hs : InitiatorInv s) (hr : s.role = .initiator) (hq : s.params.Wf) :
    IssuesAllowed s (evalDeadlines s) := by
  rcases evalDeadlines_cases s with ⟨-, h⟩ | ⟨-, -, h⟩ | ⟨-, -, -, h⟩ | ⟨-, -, -, h⟩ <;> rw [h]
  · exact .of_trace_eq rfl
  · exact .of_trace_eq rfl
  · exact resendPending_issues hs hr hq
  · exact .of_trace_eq rfl

end

end Sys2Proof.Machine
end

section
/-! The responder's datagrams (R113, R253), and the statements about everything a step issues. -/

namespace Sys2Proof.Machine

/-! ### Sink operations -/

/-- Is the operation on a sink? -/
def SinkOp : PortOp → Prop
  | .tx _ _ => False
  | .srcRead _ _ => False
  | .sinkOpen _ => True
  | .sinkWrite _ _ => True
  | .sinkFlush _ => True
  | .sinkClose _ => True

/-- R113 and R287 say nothing of a sink operation. -/
theorem SinkOp.allowed {o : PortOp} (h : SinkOp o) (t : State) : OpAllowed t o := by
  cases o with
  | tx | srcRead => exact h.elim
  | sinkOpen | sinkWrite | sinkFlush | sinkClose => trivial

/-- Sink operations alone are allowed. -/
theorem Issues.allowed_of_sinkOps {s t u : State} (h : Issues SinkOp s t) : Issues (OpAllowed u) s t :=
  h.mono fun _ ho => ho.allowed u

/-- `close_sink(i)` (R246). -/
theorem closeSink_issues (i : Nat) (s : State) : Issues SinkOp s (closeSink i s) := by
  rw [closeSink_eq]
  exact Issues.ite (t := emit (.sinkClose (s.slot i).connId) s) (.emit trivial) _

/-- `abort_slot(i)` (R247). -/
theorem abortSlot_issues (i : Nat) (s : State) : Issues SinkOp s (abortSlot i s) := closeSink_issues i s

/-- Delivery (R239, R240). -/
theorem deliver_issues (i : Nat) (seq : Word32) (b : List Byte) (s : State) :
    Issues SinkOp s (deliver i seq b s) := by
  rw [deliver_eq]
  have written : Issues SinkOp s (emit (.sinkWrite (s.slot i).connId b) s) := .emit trivial
  exact (written.trans (.emit (o := .sinkFlush (s.slot i).connId) trivial)).ite (seq = (s.slot i).ack ∧ b ≠ [])

/-- DATA or ACK of an open stream, up to the reply (R239 to R241). -/
theorem reconcile_deliver_issues (i : Nat) (seq ack : Word32) (b : List Byte) (s : State) :
    Issues SinkOp s (reconcile i ack (deliver i seq b (stampSlot i s))) := by
  rw [reconcile_eq]
  exact deliver_issues i seq b (stampSlot i s)

/-- A FIN, up to the replies (R243). -/
theorem advanceFin_issues (i : Nat) (seq : Word32) (s : State) :
    Issues SinkOp s (advanceFin i seq (stampSlot i s)) := by
  rw [advanceFin_eq]
  exact .of_trace_eq rfl

/-- A SYN, up to the reply (R234). -/
theorem openSlot_issues (i : Nat) (seq : Word32) (s : State) :
    Issues SinkOp s (openSlot i seq (reclaimSlot i s)) := by
  rw [openSlot_reclaimSlot_eq]
  have closed : Issues SinkOp s (emit (.sinkClose (s.slot i).connId) s) := .emit trivial
  exact (closed.ite ((s.slot i).inUse ∧ (s.slot i).sinkOpen)).trans (.emit (o := .sinkOpen _) trivial)

/-- DATA or ACK of a slot that has observed a FIN (R238). -/
theorem closingSlot_issues (pureAck : Bool) (i : Nat) (s : State) : Issues SinkOp s (closingSlot pureAck i s) := by
  cases pureAck with
  | false => exact closeSink_issues i s
  | true => exact closeSink_issues i s

/-! ### Replies -/

/-- A reply hands over its packet, to the sender of the datagram, and if that fails closes the slot's sink (R247,
R253). -/
theorem replyTx_issues (i : Nat) (k : Packet) (s : State) :
    Issues (fun o => SinkOp o ∨ o = .tx (packetBytes k) s.rxp.peer) s (replyTx i k s).2 := by
  have sent : Issues (fun o => SinkOp o ∨ o = .tx (packetBytes k) s.rxp.peer) s (transmit k s.rxp.peer s).2 :=
    (transmit_issues k s.rxp.peer s).mono fun _ => .inr
  unfold replyTx
  split
  · rename_i t h; rwa [h] at sent
  · rename_i t h; rw [h] at sent; exact sent.trans ((abortSlot_issues i t).mono fun _ => .inl)

/-- Slot `i` is ready to be answered from: the responder's table meets its invariants and the slot is in use. -/
structure ReplyReady (i : Nat) (u : State) : Prop where
  role : u.role = .responder
  wf : u.params.Wf
  table : TableInv u
  index : i < u.slots.length
  used : (u.slot i).inUse = true

/-- The flags of a reply (R113), a SYNACK carrying the number after that of the SYN in `RXP`. -/
def ReplyFlags (u : State) (i : Nat) (flags : Word16) : Prop :=
  flags = flagsAck u.params ∨ flags = u.params.rspFinFlags ∨
    (flags = flagsSynAck u.params ∧ (u.slot i).ack = addSeq u.params u.rxp.seq 1)

/-- A slot record that stands for the packet a reply carried: the slot freed since, or its numbers kept (R247). -/
def AnswersFor (x y : Slot) : Prop := y = Slot.free ∨ (x.seq = y.seq ∧ x.ack = y.ack)

/-- A packet of a slot is of the responder's rows (R113). -/
theorem ReplyReady.legal {i : Nat} {u : State} (h : ReplyReady i u) {flags : Word16} (hf : ReplyFlags u i flags) :
    legalDatagram .responder u.params (packetBytes (slotPacket (u.slot i) flags)) = true := by
  obtain ⟨hlen, hinv⟩ := h.table
  obtain ⟨id, seq, ack, -⟩ := (hinv i h.index).2 h.used
  have index := h.index
  refine legalDatagram_responder h.wf seq ack (Nat.zero_le _) ?_
  have row : flags = flagsAck u.params ∨ flags = flagsSynAck u.params ∨ flags = u.params.rspFinFlags :=
    hf.imp_right fun h => h.symm.imp_left And.left
  have low : 1 ≤ (u.slot i).connId.toNat := by omega
  have high : (u.slot i).connId.toNat ≤ u.params.nSlots := by omega
  simpa [responderRow, slotPacket, barePacket, low, high, or_assoc] using row

/-- A reply from slot `i` in `u` is allowed of every event that ends with a record answering for it. -/
theorem ReplyReady.allowed {i : Nat} {u t : State} {y : Slot} (h : ReplyReady i u) {flags : Word16}
    (hf : ReplyFlags u i flags) (w : SlotWritten i y u t) (hy : AnswersFor (u.slot i) y) :
    OpAllowed t (.tx (packetBytes (slotPacket (u.slot i) flags)) u.rxp.peer) := by
  have legal := h.legal hf
  rw [← w.params] at legal
  rw [← w.rxp]
  refine opAllowed_responder (by rw [State.role_eq, w.straps]; exact h.role) legal
    ⟨i, by rw [w.slots, List.length_set]; exact h.index, h.table.connId_of_inUse h.index h.used, rfl, ?_, ?_⟩
  · rw [w.params, w.rxp]
    exact hf
  · rw [w.slot h.index]
    exact hy

/-- A single reply (R234, R242). -/
theorem ReplyReady.reply_issues {i : Nat} {u : State} (h : ReplyReady i u) {flags : Word16}
    (hf : ReplyFlags u i flags) : IssuesAllowed u (replyTx i (slotPacket (u.slot i) flags) u).2 := by
  refine (replyTx_issues i _ u).mono ?_
  rintro o (sink | rfl)
  · exact sink.allowed _
  · rcases replyTx_written i (slotPacket (u.slot i) flags) u with w | w
    · exact h.allowed hf w (.inr ⟨rfl, rfl⟩)
    · exact h.allowed hf w (.inl rfl)

/-- A slot is still ready after a reply that succeeds. -/
theorem ReplyReady.of_written {i : Nat} {u t : State} (h : ReplyReady i u) (w : SlotWritten i (u.slot i) u t) :
    ReplyReady i t where
  role := by rw [State.role_eq, w.straps]; exact h.role
  wf := by rw [w.params]; exact h.wf
  table := by
    refine h.table.congr w.params ?_
    rw [w.slots]
    exact congrArg State.slots (State.setSlot_slot_self u i)
  index := by rw [w.slots, List.length_set]; exact h.index
  used := by rw [w.slot h.index]; exact h.used

/-- Two replies, the first of which succeeds, and what follows them (R244, R245): `t` is the state between them. -/
theorem ReplyReady.two_replies_issue {i : Nat} {u t v : State} {y : Slot} (h : ReplyReady i u)
    (first : replyTx i (slotPacket (u.slot i) (flagsAck u.params)) u = (.ok, t))
    (rest : Issues (fun o => SinkOp o ∨ o = .tx (packetBytes (slotPacket (t.slot i) t.params.rspFinFlags)) t.rxp.peer)
      t v)
    (w : SlotWritten i y t v) (hy : AnswersFor (t.slot i) y) : IssuesAllowed u v := by
  have sent := replyTx_issues i (slotPacket (u.slot i) (flagsAck u.params)) u
  have kept := replyTx_ok_written first
  have slot := kept.slot h.index
  rw [first] at sent
  refine (sent.mono ?_).trans (rest.mono ?_)
  · rintro o (sink | rfl)
    · exact sink.allowed _
    · exact h.allowed (.inl rfl) (kept.trans w) (slot ▸ hy)
  · rintro o (sink | rfl)
    · exact sink.allowed _
    · exact (h.of_written kept).allowed (.inr (.inl rfl)) w hy

/-- The answer to a FIN (R244, R245). -/
theorem ReplyReady.answerFin_issues {i : Nat} {u : State} (h : ReplyReady i u) : IssuesAllowed u (answerFin i u) := by
  rcases answerFin_cases i u with ⟨t, ht, e⟩ | ⟨t, v, ht, hv, e⟩ | ⟨t, v, ht, hv, e⟩ <;> rw [e]
  · have sent := h.reply_issues (flags := flagsAck u.params) (.inl rfl)
    rwa [ht] at sent
  · have second := replyTx_issues i (slotPacket (t.slot i) t.params.rspFinFlags) t
    rw [hv] at second
    exact h.two_replies_issue ht second (replyTx_fail_written hv) (.inl rfl)
  · have second := replyTx_issues i (slotPacket (t.slot i) t.params.rspFinFlags) t
    rw [hv] at second
    have kept := replyTx_ok_written hv
    have index := (h.of_written (replyTx_ok_written ht)).index
    have mark := markFin_written (i := i) (s := v) (by rw [kept.slots, List.length_set]; exact index)
    rw [kept.slot index] at mark
    exact h.two_replies_issue ht (second.trans ((closeSink_issues i _).mono fun _ => .inl)) (kept.trans mark)
      (.inr ⟨rfl, rfl⟩)

/-! ### The responder's packets -/

section
variable {s : State}

/-- What a packet's event leaves in its slot before the reply is ready to be answered from. -/
theorem replyReady_of_event {i : Nat} {x : Slot} {u : State} (hr : s.role = .responder) (hq : s.params.Wf)
    (hs : TableInv s) (hi : i < s.slots.length) (hx : SlotEvent s i x) (w : SlotWritten i x s u)
    (used : x.inUse = true) : ReplyReady i u where
  role := by rw [State.role_eq, w.straps]; exact hr
  wf := by rw [w.params]; exact hq
  table := TableEvent.tableInv (.inr ⟨i, x, hi, hx, w⟩) hq hs
  index := by rw [w.slots, List.length_set]; exact hi
  used := by rw [w.slot hi]; exact used

/-- A SYN up to its reply writes the new record (R234). -/
theorem openSlot_written (i : Nat) (seq : Word32) (s : State) :
    SlotWritten i (newSlot i seq s) s (openSlot i seq (reclaimSlot i s)) := by
  rw [openSlot_reclaimSlot_eq]
  have closed := (emit_output (.sinkClose (s.slot i).connId) s).ite ((s.slot i).inUse ∧ (s.slot i).sinkOpen)
  exact ((closed.trans (takeDraw_output _)).setSlot_written i _).output (emit_output _ _)

/-- A SYN (R233 to R235). -/
theorem responderSyn_issues (hr : s.role = .responder) (hq : s.params.Wf) (hs : TableInv s) {seq : Word32}
    (hseq : s.rxp.seq = seq) : IssuesAllowed s (responderSyn seq s) := by
  unfold responderSyn
  cases hf : findCandidate s with
  | none => exact .of_trace_eq rfl
  | some i =>
    obtain ⟨hi, -, -⟩ := findCandidate_some hf
    have opened := openSlot_written i seq s
    have ready := replyReady_of_event hr hq hs hi (.opened seq) opened rfl
    refine (openSlot_issues i seq s).allowed_of_sinkOps.trans (ready.reply_issues (.inr (.inr ⟨rfl, ?_⟩)))
    rw [opened.slot hi, opened.params, opened.rxp, hseq]
    rfl

/-- DATA or ACK (R236 to R242). -/
theorem responderData_issues (hr : s.role = .responder) (hq : s.params.Wf) (hs : TableInv s) (pureAck : Bool)
    (seq ack : Word32) (id : Word16) (b : List Byte) : IssuesAllowed s (responderData pureAck seq ack id b s) := by
  unfold responderData
  cases hl : lookupSlot s id with
  | none => exact .of_trace_eq rfl
  | some i =>
    obtain ⟨hi, used, -⟩ := lookupSlot_some hl
    dsimp only
    split
    · exact (closingSlot_issues pureAck i (stampSlot i s)).allowed_of_sinkOps
    · have stamped := stampSlot_written i s
      have delivered := deliver_written i seq b (stampSlot i s)
      rw [stamped.slot hi, stamped.params] at delivered
      have toDelivered := stamped.trans delivered
      have reconciled := reconcile_written i ack (deliver i seq b (stampSlot i s))
      rw [toDelivered.slot hi, toDelivered.params] at reconciled
      have ready := replyReady_of_event hr hq hs hi
        (.advanced _ _ used (keptOrAdvanced_ite _ _ _ _) (keptOrAdvanced_ite _ _ _ _)) (toDelivered.trans reconciled)
        used
      exact (reconcile_deliver_issues i seq ack b s).allowed_of_sinkOps.trans (ready.reply_issues (.inl rfl))

/-- A FIN (R243 to R245). -/
theorem responderFin_issues (hr : s.role = .responder) (hq : s.params.Wf) (hs : TableInv s) (seq : Word32)
    (id : Word16) : IssuesAllowed s (responderFin seq id s) := by
  unfold responderFin
  cases hl : lookupSlot s id with
  | none => exact .of_trace_eq rfl
  | some i =>
    obtain ⟨hi, used, -⟩ := lookupSlot_some hl
    have stamped := stampSlot_written i s
    have advanced := advanceFin_written i seq (stampSlot i s)
    rw [stamped.slot hi, stamped.params] at advanced
    have ready := replyReady_of_event hr hq hs hi
      (.advanced _ _ used (.inl rfl) (keptOrAdvanced_ite _ _ _ _)) (stamped.trans advanced) used
    exact (advanceFin_issues i seq s).allowed_of_sinkOps.trans ready.answerFin_issues

/-! ### Every event -/

/-- The state in which the initiator's handler of a packet runs: the abort deadline is restarted (R166). -/
def refreshed (s : State) : State := s.setC { s.c with lastActivity := s.now }

/-- The arrival of a packet issues what its handler issues (R52, R166, R202). -/
theorem arrive_issues {f g : State → State} {t : State} (h : arrive f g s = .next t)
    (atInitiator : s.role = .initiator → IssuesAllowed (refreshed s) (f (refreshed s)))
    (atResponder : s.role = .responder → IssuesAllowed s (g s)) : IssuesAllowed s t := by
  cases hr : s.role with
  | responder =>
    rw [arrive_responder hr] at h
    cases h
    exact atResponder hr
  | initiator =>
    cases ha : s.c.state.active with
    | false =>
      rw [arrive_initiator_inactive hr ha] at h
      cases h
      exact .of_trace_eq rfl
    | true =>
      rw [arrive_initiator_active hr ha] at h
      cases h
      exact (Issues.of_trace_eq (t := refreshed s) rfl).trans (atInitiator hr)

/-- Dropping a packet issues nothing (R319). -/
theorem drop_issues (b : StickyBit) (s : State) : IssuesAllowed s (drop b s) := .of_trace_eq rfl

/-- Executing the packet in `RXP` issues only what is allowed. -/
theorem exec_issues {i : Instr} {t : State} (hq : s.params.Wf) (hi : InitiatorInv s) (ht : TableInv s)
    (hseq : s.rxp.seq = (instrPacket s.params i).seq) (h : exec i s = .next t) : IssuesAllowed s t := by
  have fin : ∀ kind seq ack, s.rxp.seq = seq → s.role = .initiator →
      IssuesAllowed (refreshed s) (initiatorFin kind seq ack (refreshed s)) :=
    fun kind seq ack hseq hr => initiatorFin_issues (s := refreshed s) hr hq kind hseq ack
  cases i with
  | data seq ack id b =>
    exact arrive_issues h (fun _ => drop_issues _ _) fun hr => responderData_issues hr hq ht false seq ack id b
  | fin seq ack id b => exact arrive_issues h (fin .fin seq ack hseq) fun hr => responderFin_issues hr hq ht seq id
  | syn seq ack id b =>
    exact arrive_issues h (fun _ => drop_issues _ _) fun hr => responderSyn_issues (seq := seq) hr hq ht hseq
  | ack seq ack id b =>
    exact arrive_issues h (fun hr => initiatorAck_issues (s := refreshed s) hi hr hq ack) fun hr =>
      responderData_issues hr hq ht true seq ack id b
  | finack seq ack id b => exact arrive_issues h (fin .finack seq ack hseq) fun _ => drop_issues _ s
  | synack seq ack id b =>
    exact arrive_issues h (fun hr => initiatorSynack_issues (s := refreshed s) hi hr hq seq ack id) fun _ =>
      drop_issues _ s

/-- `E_START` (R186, R254). -/
theorem eventStart_issues (hq : s.params.Wf) : IssuesAllowed s (eventStart s) := by
  unfold eventStart
  split
  · rename_i hr
    split
    · exact startTransfer_issues hr hq
    · exact .of_trace_eq rfl
  · exact .of_trace_eq rfl

/-- `E_TICK` (R168, R170). -/
theorem eventTick_issues (hq : s.params.Wf) (hi : InitiatorInv s) : IssuesAllowed s (eventTick s) := by
  unfold eventTick
  split
  · rename_i hr
    exact evalDeadlines_issues (s := countTick s) hi hr hq
  · exact .of_trace_eq rfl

/-- `E_RXERR` issues nothing (R208, R254). -/
theorem eventRxErr_trace (s : State) : (eventRxErr s).io.trace = s.io.trace := by
  unfold eventRxErr
  split
  · split <;> rfl
  · rfl

/-- The truncation note issues nothing (R282). -/
theorem noteTruncation_output (d : Datagram) (s : State) : OutputFrame s (noteTruncation d s) :=
  (raiseSticky_output _ s).ite _

/-- The truncation note leaves the ports. -/
theorem noteTruncation_io (d : Datagram) (s : State) : (noteTruncation d s).io = s.io := by
  unfold noteTruncation
  split <;> rfl

/-- A packet of a reserved kind leaves the ports (R150). -/
theorem receiveReserved_io (s : State) : (receiveReserved s).io = s.io := by
  unfold receiveReserved refreshActivity
  split <;> rfl

end

/-- The state in which a packet is executed: `RXP` is loaded in the served state, all else the engines read being as
after the environment's turn (R282, R133). -/
theorem loaded_frame (k : Packet) (peer : Nat) (d : Datagram) (e : Event) (s : State) :
    let u := loadRxp k peer (noteTruncation d (served e s))
    u.straps = (takeTurn s).straps ∧ u.c = (takeTurn s).c ∧ u.p = (takeTurn s).p ∧ u.slots = (takeTurn s).slots ∧
      u.io.trace = (served e s).io.trace := by
  have f := noteTruncation_output d (served e s)
  exact ⟨f.straps, f.c, f.p, f.slots, congrArg Ports.trace (noteTruncation_io d (served e s))⟩

/-- Everything a step issues is allowed. -/
theorem step_issues {s t : State} (henv : EnvWf s) (hi : InitiatorInv s) (ht : TableInv s) (h : step s = .next t) :
    IssuesAllowed s t := by
  have wf : (takeTurn s).params.Wf := henv.takeTurn.1
  have inv : InitiatorInv (takeTurn s) := hi.takeTurn
  have table : TableInv (takeTurn s) := ht.congr (takeTurn_params s) (takeTurn_frame s).slots
  have quiet : ∀ e, Issues (OpAllowed t) s (served e s) := fun e => .of_trace_eq (served_frame e s).trace
  rcases step_cases h with ⟨-, rfl⟩ | ⟨-, rfl⟩ | ⟨-, rfl⟩ | ⟨-, rfl⟩ | ⟨-, rfl⟩ | ⟨d, -, hrx⟩
  · exact .of_trace_eq (takeTurn_frame s).trace
  · exact (quiet _).trans (.of_trace_eq rfl)
  · exact (quiet _).trans (.of_trace_eq (eventRxErr_trace _))
  · exact (quiet _).trans (eventStart_issues wf)
  · exact (quiet _).trans (eventTick_issues (s := served .tick s) wf inv)
  · have note := congrArg Ports.trace (noteTruncation_io d (served (.rx d) s))
    refine (quiet (.rx d)).trans ?_
    rcases hrx with ⟨-, rfl⟩ | ⟨-, rfl⟩ | ⟨k, -, rfl⟩ | ⟨k, i, -, -, hk, he⟩
    · exact .of_trace_eq note
    · exact .of_trace_eq note
    · exact .of_trace_eq ((congrArg Ports.trace (receiveReserved_io _)).trans note)
    · obtain ⟨straps, c, p, slots, trace⟩ := loaded_frame k d.peer d (.rx d) s
      have params := congrArg Straps.params straps
      refine (Issues.of_trace_eq trace).trans (exec_issues ?_ (inv.congr params c p) (table.congr params slots) ?_ he)
      · rw [State.params_eq, straps]; exact wf
      · rw [State.params_eq, straps, ← State.params_eq, classifyPacket_eq_some hk]; rfl

/-- A step keeps the straps or issues nothing: only a reset samples them (R350, R352). -/
theorem step_straps_or_silent {s t : State} (h : step s = .next t) :
    t.straps = s.straps ∨ issuedOps s t = [] := by
  rcases step_moves h with ⟨-, rfl⟩ | moves
  · have trace : (resetMachine (served .reset s)).io.trace = s.io.trace ++ [] := by
      rw [List.append_nil]; exact (served_frame .reset s).trace
    exact .inr (issuedOps_of_trace trace)
  · refine .inl ?_
    clear h
    induction moves with
    | refl => exact (takeTurn_frame s).straps
    | tail _ m ih => exact m.straps.trans ih

/-- Settles O52 (R74, R113, R287): what is allowed of an operation in the state after the step, the straps being those
before it, is what the trace predicates ask. -/
theorem onlyLegalDatagramsAndReads : Obligations.OnlyLegalDatagramsAndReads := by
  intro s t henv hi ht h
  have issued := step_issues henv hi ht h
  refine ⟨issued.trace_eq, ?_⟩
  rcases step_straps_or_silent h with straps | silent
  · have role : s.role = t.role := by rw [State.role_eq, ← straps, State.role_eq]
    have params : s.params = t.params := by rw [State.params_eq, ← straps, State.params_eq]
    rw [role, params, legalTransmissions_iff, legalReads_iff]
    refine ⟨fun d dest hop => ?_, fun off len => issued.of_mem _⟩
    obtain ⟨-, -, legal, -⟩ := issued.of_mem _ hop
    exact legal
  · rw [silent]
    exact ⟨rfl, rfl⟩

/-- Settles O57 (R113, R253): a datagram allowed in the state after the step is the bytes of a packet of a row, and these
decode to it. -/
theorem transmittedFieldsFollowTable : Obligations.TransmittedFieldsFollowTable := by
  intro s t d dest henv hi ht h hop
  obtain ⟨k, rfl, -, rows⟩ := (step_issues henv hi ht h).of_mem _ hop
  exact ⟨k, rfl, decodePacket_packetBytes (henv.step h).1.hdrLen_eq k, rows⟩

end Sys2Proof.Machine
end

section
/-! The codec as a whole: `ENCODE` and `DECODE` undo each other on packets (R135) and on the instructions of the opcode
table (R106, R131, R133). -/

namespace Sys2Proof

/-! ### Packets -/

/-- A payload too long is refused (R132). -/
theorem encodePacket_eq_none {m : Nat} {k : Packet} (h : m < k.payload.length) : encodePacket m k = none :=
  if_neg (Nat.not_le.mpr h)

/-- A datagram of at least `HDR_LEN` bytes is the bytes of a packet (R133, R134). -/
theorem exists_packetBytes_eq {q : Params} (hq : q.hdrLen = 12) {d : List Byte} (h : q.hdrLen ≤ d.length) :
    ∃ k, packetBytes k = d := by
  have decodes : decodePacket q d ≠ none := fun e => Nat.not_lt.mpr h ((decodePacket_eq_none_iff hq d).mp e)
  obtain ⟨k, hk⟩ := Option.ne_none_iff_exists'.mp decodes
  exact ⟨k, decodePacket_eq_some hq hk⟩

/-- Packets with the same bytes are the same: `DECODE` reads one back from them (R135). -/
theorem packetBytes_injective : Function.Injective packetBytes := by
  intro k k' h
  have back := decodePacket_packetBytes (q := Params.default) rfl
  exact Option.some.inj ((back k).symm.trans (h ▸ back k'))

/-- Settles O1 (R135): both codec functions relate a packet and its bytes, `packetBytes`, which are 12 more than the
payload and determine the packet. -/
theorem codecRoundTripsBothWays : Obligations.CodecRoundTripsBothWays := by
  intro q hq
  have header := hq.hdrLen_eq
  refine ⟨fun k fits => ?_, fun d lower upper => ?_, fun k k' d h h' => ?_, fun d d' k h h' => ?_⟩
  · refine ⟨packetBytes k, (encodePacket_eq_some_iff _ _ _).mpr ⟨fits, rfl⟩, ?_,
      decodePacket_packetBytes header k, fun _ => rfl⟩
    rw [packetBytes_length, header]
  · obtain ⟨k, rfl⟩ := exists_packetBytes_eq header lower
    have length : (packetBytes k).length = q.hdrLen + k.payload.length := by rw [packetBytes_length, header]
    have fits : k.payload.length ≤ q.maxPayload := by omega
    exact ⟨k, decodePacket_packetBytes header k, (encodePacket_eq_some_iff _ _ _).mpr ⟨fits, rfl⟩,
      fun _ => length.symm⟩
  · obtain ⟨-, bytes⟩ := (encodePacket_eq_some_iff _ _ _).mp h
    obtain ⟨-, bytes'⟩ := (encodePacket_eq_some_iff _ _ _).mp h'
    exact packetBytes_injective (bytes.trans bytes'.symm)
  · exact (decodePacket_eq_some header h).symm.trans (decodePacket_eq_some header h')

/-! ### Instructions -/

/-- `decode` answers the instruction that `DECODE`'s packet is classified as (R133, R136). -/
theorem decode_eq_ok {q : Params} {d : List Byte} {k : Packet} {i : Instr} (hk : decodePacket q d = some k)
    (hi : classifyPacket q k = some i) : decode q d = .ok i := by
  simp only [decode, hk, hi]

/-- Decoding undoes encoding, whatever the length of the payload (R106, R131, R133). -/
theorem decode_encode {q : Params} (hq : q.Wf) (i : Instr) : decode q (encode q i) = .ok i :=
  decode_eq_ok (decodePacket_packetBytes hq.hdrLen_eq _) (classifyPacket_instrPacket hq i)

/-- Encoding undoes decoding (R106, R133). -/
theorem encode_of_decode {q : Params} (hq : q.hdrLen = 12) {d : List Byte} {i : Instr} (h : decode q d = .ok i) :
    encode q i = d :=
  decodePacket_eq_some hq (Machine.decodePacket_of_decode h)

/-- Settles O2 (R106, R131, R133). -/
theorem decodeEncodeAgreeOnInstructions : Obligations.DecodeEncodeAgreeOnInstructions := by
  intro q hq
  refine ⟨fun i fits => ⟨?_, decode_encode hq i⟩, fun d i => encode_of_decode hq.hdrLen_eq⟩
  exact (encodePacket_eq_some_iff _ _ _).mpr ⟨by rwa [instrPacket_payload], rfl⟩

/-- The datagram of a packet of a reserved kind is refused with its flags value (R108, log 15). -/
theorem decode_packetBytes_reserved {q : Params} (hq : q.hdrLen = 12) {k : Packet}
    (h : classifyPacket q k = none) : decode q (packetBytes k) = .error (.reservedFlags k.flags) := by
  simp only [decode, decodePacket_packetBytes hq, h]

/-- Settles O3 (R144 to R149; log 15): each worked header is the encoding of its instruction, and the last two datagrams
are those of packets whose flags are listed for no kind. -/
theorem workedHeadersDecode : Obligations.WorkedHeadersDecode := by
  have worked : ∀ {d} (i : Instr), encode Params.default i = d → decode Params.default d = .ok i := by
    rintro _ i rfl
    exact decode_encode (by decide) i
  have refused : ∀ {d} (k : Packet), classifyPacket Params.default k = none → packetBytes k = d →
      decode Params.default d = .error (.reservedFlags k.flags) := by
    rintro _ k h rfl
    exact decode_packetBytes_reserved rfl h
  exact ⟨worked _ rfl, worked _ rfl, worked _ rfl, worked _ rfl, worked _ rfl, worked _ rfl,
    refused { seq := 0, ack := 0, connId := 1, flags := 3, payload := [] } rfl rfl,
    refused { seq := 0xFFFFFFFF, ack := 0x01020304, connId := 0xABCD, flags := 0x8007, payload := [0] } rfl rfl⟩

end Sys2Proof
end

section
/-! The arithmetic of sequence numbers (R140) and of elapsed time (R152, R165). -/

namespace Sys2Proof.Machine

/-- `add_seq` as a number: the reduced sum fits its u32 field, since `MAX_SEQ` does (R34, R140). -/
theorem addSeq_toNat {q : Params} (hq : q.Wf) (a : Word32) (n : Nat) :
    (addSeq q a n).toNat = (a.toNat + n) % q.maxSeq := by
  obtain ⟨-, -, -, positive, fits, -⟩ := hq
  have := Nat.mod_lt (a.toNat + n) (show 0 < q.maxSeq by omega)
  rw [addSeq, BitVec.toNat_ofNat, Nat.mod_eq_of_lt (by omega)]

/-- Settles O7 (R140, R143). -/
theorem addSeqIsNaturalSumModulo : Obligations.AddSeqIsNaturalSumModulo :=
  ⟨fun _ a n hq => ⟨addSeq_toNat hq a n, addSeq_lt hq a n⟩, by decide⟩

/-- Elapsed time between two readings of the counter (R152): the start is subtracted from one full turn first, so that
the difference is a natural number. -/
theorem elapsed_of_lt {q : Params} {now t0 : Nat} (hnow : now < 2 ^ q.nowW) (ht0 : t0 < 2 ^ q.nowW) :
    elapsed q now t0 = (now + (2 ^ q.nowW - t0)) % 2 ^ q.nowW := by
  rw [elapsed, Nat.mod_eq_of_lt hnow, Nat.mod_eq_of_lt ht0]

/-- Elapsed time is the difference modulo `2^NOW_W` (R152). -/
theorem elapsed_eq_emod {q : Params} {now t0 : Nat} (hnow : now < 2 ^ q.nowW) (ht0 : t0 < 2 ^ q.nowW) :
    (elapsed q now t0 : Int) = ((now : Int) - t0) % 2 ^ q.nowW := by
  have turned : (now : Int) + (2 ^ q.nowW - t0) = now - t0 + 2 ^ q.nowW := by ring
  rw [elapsed_of_lt hnow ht0]
  push_cast [Nat.cast_sub ht0.le]
  rw [turned, Int.add_emod_right]

/-- While the counter has not wrapped, elapsed time is the plain difference (R152). -/
theorem elapsed_of_le {q : Params} {now t0 : Nat} (hnow : now < 2 ^ q.nowW) (h : t0 ≤ now) :
    elapsed q now t0 = now - t0 := by
  have turned : now + (2 ^ q.nowW - t0) = now - t0 + 2 ^ q.nowW := by omega
  rw [elapsed_of_lt hnow (h.trans_lt hnow), turned, Nat.add_mod_right, Nat.mod_eq_of_lt (by omega)]

/-- The expiry test is an unsigned comparison (R152, R165). -/
theorem expired_iff (q : Params) (now t0 t : Nat) : expired q now t0 t = true ↔ t ≤ elapsed q now t0 :=
  decide_eq_true_iff

/-- Settles O32 (R152, R165). -/
theorem deadlineExpiresAfterItsTicks : Obligations.DeadlineExpiresAfterItsTicks := by
  intro q now t0 t hnow ht0
  refine ⟨elapsed_eq_emod hnow ht0, expired_iff q now t0 t, fun h => ?_⟩
  rw [expired_iff, elapsed_of_le hnow h]
  omega

end Sys2Proof.Machine
end

section
/-! `ENC_LEN` is never set under well-formed parameters (R333): every packet a rule transmits fits `MAX_PAYLOAD`, so
that `ENCODE` refuses none of them (R132), and what else a rule raises is another bit. -/

namespace Sys2Proof.Machine

/-! ### The bit -/

/-- Setting a sticky bit other than `ENC_LEN` leaves that one (R55). -/
theorem raiseSticky_encLen_of_ne {b : StickyBit} (h : b ≠ .encLen) (s : State) :
    (raiseSticky b s).stickyBit .encLen = s.stickyBit .encLen := by
  have other : b.index ≠ StickyBit.encLen.index := by
    cases b with
    | encLen => exact absurd rfl h
    | malformed | rsvdFlags | tblFull | lookupMiss | rxErr | rxTrunc | slotAbort => decide
  simp [State.stickyBit, stickyWith, BitVec.getLsbD_twoPow, other]

/-- A sticky bit that is set reads 1 (R55). -/
theorem raiseSticky_stickyBit (b : StickyBit) (s : State) : (raiseSticky b s).stickyBit b = true := by
  have inside : b.index < 32 := by cases b <;> decide
  simp [State.stickyBit, stickyWith, inside]

/-- From `s` to `t` the parameters stay, and if they are well formed `ENC_LEN` does. -/
structure EncLenKept (s t : State) : Prop where
  params : t.params = s.params
  bit : s.params.Wf → t.stickyBit .encLen = s.stickyBit .encLen

section
variable {s t u : State}

/-- A change of neither the straps nor `STICKY`. -/
theorem EncLenKept.of_eq (straps : t.straps = s.straps) (sticky : t.sticky = s.sticky) : EncLenKept s t :=
  ⟨by rw [State.params_eq, straps, State.params_eq], fun _ => by rw [State.stickyBit, sticky, State.stickyBit]⟩

/-- A state is related to itself. -/
theorem EncLenKept.refl (s : State) : EncLenKept s s := ⟨rfl, fun _ => rfl⟩

/-- Two changes in a row. -/
theorem EncLenKept.trans (h : EncLenKept s t) (g : EncLenKept t u) : EncLenKept s u :=
  ⟨g.params.trans h.params, fun hq => (g.bit (h.params ▸ hq)).trans (h.bit hq)⟩

/-- A change after one of neither the straps nor `STICKY`. -/
theorem EncLenKept.after (h : EncLenKept t u) (straps : t.straps = s.straps) (sticky : t.sticky = s.sticky) :
    EncLenKept s u :=
  (EncLenKept.of_eq straps sticky).trans h

/-- A change before one of neither the straps nor `STICKY`. -/
theorem EncLenKept.before (h : EncLenKept s t) (straps : u.straps = t.straps) (sticky : u.sticky = t.sticky) :
    EncLenKept s u :=
  h.trans (.of_eq straps sticky)

/-- A packet or datagram is dropped with another sticky bit (R319). -/
theorem EncLenKept.dropped {b : StickyBit} (h : b ≠ .encLen) : EncLenKept s (drop b s) :=
  ⟨rfl, fun _ => raiseSticky_encLen_of_ne h s⟩

end

/-! ### Transmission -/

/-- A packet fits when the parameters are well formed. -/
def Fits (q : Params) (k : Packet) : Prop := q.Wf → k.payload.length ≤ q.maxPayload

/-- A packet without payload fits. -/
theorem fits_of_nil {q : Params} {k : Packet} (h : k.payload = []) : Fits q k := fun _ => by simp [h]

/-- `Tx(ENCODE(k), dest)` of a packet that fits (R132, R333). -/
theorem transmit_encLenKept {k : Packet} {s : State} (fits : Fits s.params k) (dest : Nat) :
    EncLenKept s (transmit k dest s).2 :=
  ⟨(transmit_output k dest s).params, fun hq => by rw [transmit_fits (fits hq)]; rfl⟩

/-- `tx_or_die` of a packet that fits (R204). -/
theorem txOrDie_encLenKept {k : Packet} {s : State} (fits : Fits s.params k) : EncLenKept s (txOrDie k s) := by
  have sent := transmit_encLenKept fits s.c.peerAddr
  unfold txOrDie
  split
  · rename_i t h; rwa [h] at sent
  · rename_i t h; rw [h] at sent; exact sent.trans (.of_eq rfl rfl)

/-- `close_sink(i)` (R246). -/
theorem closeSink_encLenKept (i : Nat) (s : State) : EncLenKept s (closeSink i s) := by
  unfold closeSink
  split <;> exact .of_eq rfl rfl

/-- A reply, whose failure sets `SLOT_ABORT` (R247, R253). -/
theorem replyTx_encLenKept (i : Nat) {k : Packet} (h : k.payload = []) (s : State) :
    EncLenKept s (replyTx i k s).2 := by
  have sent := transmit_encLenKept (s := s) (fits_of_nil h) s.rxp.peer
  unfold replyTx
  split
  · rename_i t ht; rwa [ht] at sent
  · rename_i t ht
    rw [ht] at sent
    have freed : EncLenKept t (freeSlot i (closeSink i t)) := (closeSink_encLenKept i t).before rfl rfl
    exact (sent.trans freed).trans (.dropped nofun)

/-! ### The initiator -/

/-- The outstanding packet fits: it is a chunk or has no payload (R184, R185). -/
theorem pendingPacket_fits {s : State} {k : Packet} (h : pendingPacket s = some k) : Fits s.params k := by
  unfold pendingPacket at h
  cases hst : s.c.state <;> rw [hst] at h <;> cases h
  case established => exact fun hq => by simpa using chunkLen_le hq
  case synSent | finSent => exact fits_of_nil rfl

/-- The source read of a transmission (R184, R287). -/
theorem noteSrcRead_encLenKept (s : State) : EncLenKept s (noteSrcRead s) := by
  unfold noteSrcRead
  split <;> exact .of_eq rfl rfl

/-- Sending the outstanding packet (R184). -/
theorem sendPending_encLenKept (s : State) : EncLenKept s (sendPending s) := by
  unfold sendPending
  split
  · exact .refl s
  · rename_i k hk
    have read := noteSrcRead_encLenKept s
    exact read.trans (txOrDie_encLenKept (read.params.symm ▸ pendingPacket_fits hk))

/-- `send_next(off)` (R190). -/
theorem sendNext_encLenKept (off : Word32) (s : State) : EncLenKept s (sendNext off s) := by
  rcases sendNext_cases off s with ⟨-, h⟩ | ⟨-, h⟩ <;> rw [h]
  · exact (sendPending_encLenKept (enterFinSent off s)).after rfl rfl
  · exact (sendPending_encLenKept (armPending _ off s)).after rfl rfl

/-- `final_ack()` (R198). -/
theorem finalAck_encLenKept (seq : Word32) (s : State) : EncLenKept s (finalAck seq s) :=
  txOrDie_encLenKept (fits_of_nil (barePacket_payload _ _ _ _))

/-- Every change of the initiator (R166 to R208). -/
theorem InitiatorMove.encLenKept {s t : State} (h : InitiatorMove s t) : EncLenKept s t := by
  cases h with
  | refreshed => exact .of_eq rfl rfl
  | rxFailed => exact .of_eq rfl rfl
  | started =>
    unfold startTransfer
    split
    · exact .of_eq rfl rfl
    · exact (sendPending_encLenKept _).after rfl rfl
  | evaluated =>
    rcases evalDeadlines_cases s with ⟨-, h⟩ | ⟨-, -, h⟩ | ⟨-, -, -, h⟩ | ⟨-, -, -, h⟩ <;> rw [h]
    · exact .of_eq rfl rfl
    · exact .of_eq rfl rfl
    · exact (sendPending_encLenKept _).after rfl rfl
    · exact .refl s
  | synack seq ack id =>
    unfold initiatorSynack
    split
    · split
      · exact (sendNext_encLenKept 0 _).after rfl rfl
      · exact .refl s
    all_goals exact .refl s
  | ack ack =>
    unfold initiatorAck
    split
    · split
      · exact (sendNext_encLenKept _ _).after rfl rfl
      · exact (sendPending_encLenKept _).after rfl rfl
    all_goals exact .refl s
  | fin kind seq ack =>
    unfold initiatorFin
    split
    · split
      · exact (finalAck_encLenKept seq _).after rfl rfl
      · exact .refl s
    · split
      · exact finalAck_encLenKept seq s
      · exact .refl s
    all_goals exact .refl s

/-! ### The responder -/

/-- A SYN (R233 to R235). -/
theorem responderSyn_encLenKept (seq : Word32) (s : State) : EncLenKept s (responderSyn seq s) := by
  unfold responderSyn
  split
  · exact .dropped nofun
  · rename_i i _
    have reclaimed : EncLenKept s (reclaimSlot i s) := by
      unfold reclaimSlot
      split
      · exact closeSink_encLenKept i s
      · exact .refl s
    have opened : EncLenKept s (openSlot i seq (reclaimSlot i s)) := reclaimed.trans (.of_eq rfl rfl)
    exact opened.trans (replyTx_encLenKept i rfl _)

/-- Delivery (R239, R240). -/
theorem deliver_encLenKept (i : Nat) (seq : Word32) (b : List Byte) (s : State) :
    EncLenKept s (deliver i seq b s) := by
  rw [deliver_eq]
  refine EncLenKept.before ?_ rfl rfl
  split <;> exact .of_eq rfl rfl

/-- Reconciliation (R241). -/
theorem reconcile_encLenKept (i : Nat) (ack : Word32) (s : State) : EncLenKept s (reconcile i ack s) := by
  rw [reconcile_eq]
  exact .of_eq rfl rfl

/-- DATA or ACK (R236 to R242). -/
theorem responderData_encLenKept (pureAck : Bool) (seq ack : Word32) (id : Word16) (b : List Byte) (s : State) :
    EncLenKept s (responderData pureAck seq ack id b s) := by
  unfold responderData
  split
  · exact .dropped nofun
  · rename_i i _
    have stamped : EncLenKept s (stampSlot i s) := .of_eq rfl rfl
    split
    · have closed := stamped.trans (closeSink_encLenKept i _)
      cases pureAck with
      | false => exact closed
      | true => exact closed.trans (.of_eq rfl rfl)
    · have delivered := stamped.trans (deliver_encLenKept i seq b _)
      exact (delivered.trans (reconcile_encLenKept i ack _)).trans (replyTx_encLenKept i rfl _)

/-- The replies to a FIN and the mark (R244, R245). -/
theorem answerFin_encLenKept (i : Nat) (s : State) : EncLenKept s (answerFin i s) := by
  have reply : ∀ {u v : State} {f : Word16} {r : TxResult}, replyTx i (slotPacket (u.slot i) f) u = (r, v) →
      EncLenKept u v := fun {u v f r} h => by
    have kept := replyTx_encLenKept i (slotPacket_payload (u.slot i) f) u
    rwa [h] at kept
  rcases answerFin_cases i s with ⟨t, ht, h⟩ | ⟨t, u, ht, hu, h⟩ | ⟨t, u, ht, hu, h⟩ <;> rw [h]
  · exact reply ht
  · exact (reply ht).trans (reply hu)
  · have marked : EncLenKept u (markFin i u) := (closeSink_encLenKept i _).after rfl rfl
    exact ((reply ht).trans (reply hu)).trans marked

/-- A FIN (R243 to R245). -/
theorem responderFin_encLenKept (seq : Word32) (id : Word16) (s : State) :
    EncLenKept s (responderFin seq id s) := by
  unfold responderFin
  split
  · exact .dropped nofun
  · rename_i i _
    have advanced : EncLenKept s (advanceFin i seq (stampSlot i s)) := by
      rw [advanceFin_eq]
      exact .of_eq rfl rfl
    exact advanced.trans (answerFin_encLenKept i _)

/-! ### Every event -/

/-- The execution of a packet. -/
theorem exec_encLenKept {i : Instr} {s t : State} (h : exec i s = .next t) : EncLenKept s t := by
  cases hr : s.role with
  | responder =>
    rcases exec_responder_cases hr h with ⟨_, _, _, _, _, rfl⟩ | ⟨_, rfl⟩ | ⟨_, _, rfl⟩ | rfl
    · exact responderData_encLenKept _ _ _ _ _ s
    · exact responderSyn_encLenKept _ s
    · exact responderFin_encLenKept _ _ s
    · exact .dropped nofun
  | initiator =>
    cases ha : s.c.state.active with
    | false =>
      rw [exec_initiator_inactive hr ha] at h
      cases h
      exact .refl s
    | true =>
      obtain ⟨u, rfl, hu⟩ := exec_initiator_cases hr ha h
      refine (InitiatorMove.refreshed (s := s)).encLenKept.trans ?_
      rcases hu with rfl | ⟨_, _, _, rfl⟩ | ⟨_, rfl⟩ | ⟨_, _, _, rfl⟩
      · exact .dropped nofun
      · exact (InitiatorMove.synack _ _ _).encLenKept
      · exact (InitiatorMove.ack _).encLenKept
      · exact (InitiatorMove.fin _ _ _).encLenKept

/-- `E_RXERR` (R208, R254). -/
theorem eventRxErr_encLenKept (s : State) : EncLenKept s (eventRxErr s) := by
  unfold eventRxErr
  split
  · split <;> exact .of_eq rfl rfl
  · exact .dropped nofun

/-- `E_START` (R186, R254). -/
theorem eventStart_encLenKept (s : State) : EncLenKept s (eventStart s) := by
  unfold eventStart
  split
  · split
    · rename_i idle; exact (InitiatorMove.started idle).encLenKept
    · exact .refl s
  · exact .refl s

/-- `E_TICK` (R168, R170). -/
theorem eventTick_encLenKept (s : State) : EncLenKept s (eventTick s) := by
  have counted : EncLenKept s (countTick s) := .of_eq rfl rfl
  unfold eventTick
  split
  · exact counted.trans InitiatorMove.evaluated.encLenKept
  · exact counted

/-- A packet of a reserved kind (R150). -/
theorem receiveReserved_encLenKept (s : State) : EncLenKept s (receiveReserved s) := by
  have refreshed : EncLenKept s (refreshActivity s) := by
    unfold refreshActivity
    split <;> exact .of_eq rfl rfl
  exact refreshed.trans (.dropped nofun)

/-- The truncation note of an oversize datagram (R282). -/
theorem noteTruncation_encLenKept (d : Datagram) (s : State) : EncLenKept s (noteTruncation d s) := by
  unfold noteTruncation
  split
  · exact .dropped nofun
  · exact .refl s

/-- Every step is a reset or keeps `ENC_LEN`. -/
theorem step_encLenKept {s t : State} (h : step s = .next t) :
    t = resetMachine (served .reset s) ∨ EncLenKept s t := by
  have turn : EncLenKept s (takeTurn s) := .of_eq (takeTurn_frame s).straps (takeTurn_frame s).sticky
  have clear : ∀ e, EncLenKept s (served e s) := fun e => .of_eq (served_frame e s).straps (served_frame e s).sticky
  rcases step_cases h with ⟨-, rfl⟩ | ⟨-, rfl⟩ | ⟨-, rfl⟩ | ⟨-, rfl⟩ | ⟨-, rfl⟩ | ⟨d, -, hrx⟩
  · exact .inr turn
  · exact .inl rfl
  · exact .inr ((clear _).trans (eventRxErr_encLenKept _))
  · exact .inr ((clear _).trans (eventStart_encLenKept _))
  · exact .inr ((clear _).trans (eventTick_encLenKept _))
  · have noted := (clear (.rx d)).trans (noteTruncation_encLenKept d _)
    have loaded : ∀ k, EncLenKept s (loadRxp k d.peer (noteTruncation d (served (.rx d) s))) :=
      fun k => noted.trans (.of_eq rfl rfl)
    rcases hrx with ⟨-, rfl⟩ | ⟨-, rfl⟩ | ⟨k, -, rfl⟩ | ⟨k, i, -, -, -, he⟩
    · exact .inr noted
    · exact .inr (noted.trans (.dropped nofun))
    · exact .inr ((loaded k).trans (receiveReserved_encLenKept _))
    · exact .inr ((loaded k).trans (exec_encLenKept he))

/-- Settles O6 (R132, R333): a reset clears `STICKY`, and every other step keeps the bit. -/
theorem encodeRefusalSetsEncLenAndIsUnreachable : Obligations.EncodeRefusalSetsEncLenAndIsUnreachable := by
  refine ⟨fun s k dest long => ⟨encodePacket_eq_none long, ?_, ?_⟩, fun s t hq h clear => ?_⟩
  · rw [transmit_refused long]
    rfl
  · rw [transmit_refused long]
    exact raiseSticky_stickyBit .encLen _
  · rcases step_encLenKept h with rfl | kept
    · simp [State.stickyBit, resetMachine, State.resetWith]
    · exact (kept.bit hq).trans clear

end Sys2Proof.Machine
end

section
/-! The deadlines of a tick (R162 to R168): what each test says, what the evaluation does in each class of `C.state`,
and what that makes of an initiator whose SYN nobody answers (R169, R312). -/

namespace Sys2Proof.Machine

/-! ### The tests -/

/-- The abort deadline is found expired exactly where it runs and its ticks have passed (R163, R165). -/
theorem abortExpired_iff (s : State) :
    abortExpired s = true ↔
      (s.c.state = .synSent ∨ s.c.state = .finSent ∨
        (s.c.state = .established ∧ s.params.abortInEstablished = true)) ∧
      abortTicks s.params ≤ elapsed s.params s.now s.c.lastActivity := by
  rw [abortExpired, Bool.and_eq_true, expired_iff, abortRunning]
  cases s.c.state <;> simp

/-- The result of an expired abort deadline names the unacknowledged teardown in FIN_SENT only (R168, R317). -/
theorem abortResult_eq (s : State) :
    abortResult s = if s.c.state = .finSent then .errTeardownNotAcked else .errPeerUnresponsive := by
  rw [abortResult]
  cases s.c.state <;> rfl

/-! ### The evaluation -/

/-- The abort deadline comes first (R168). -/
theorem evalDeadlines_of_abort {s : State} (h : abortExpired s = true) :
    evalDeadlines s = closeConn (abortResult s) s := if_pos h

/-- In LINGER the linger deadline alone runs (R163, R164, R167). -/
theorem evalDeadlines_of_linger {s : State} (hst : s.c.state = .linger) :
    evalDeadlines s =
      if lingerTicks s.params ≤ elapsed s.params s.now s.c.lingerStart then closeConn .ok s else s := by
  simp [evalDeadlines, abortExpired, abortRunning, lingerExpired, roundExpired, ConnState.sending, expired, hst]

/-- With a packet outstanding and the abort deadline not expired, the round decides (R162, R168). -/
theorem evalDeadlines_of_sending {s : State} (hst : s.c.state.sending = true) (hv : s.p.valid = true)
    (ha : ¬ abortExpired s = true) :
    evalDeadlines s =
      if roundTicks s.params ≤ elapsed s.params s.now s.p.sendTime then resendPending s else s := by
  have hl : lingerExpired s = false := by
    have hne : s.c.state ≠ .linger := fun e => by rw [e] at hst; cases hst
    simp [lingerExpired, hne]
  simp [evalDeadlines, ha, hl, roundExpired, hst, hv, expired]

/-- In IDLE and CLOSED no deadline runs (R163, R164, R167). -/
theorem evalDeadlines_of_resting {s : State} (hst : s.c.state = .idle ∨ s.c.state = .closed) :
    evalDeadlines s = s := by
  rcases hst with hst | hst <;>
    simp [evalDeadlines, abortExpired, abortRunning, lingerExpired, roundExpired, ConnState.sending, hst]

/-- A tick of the initiator counts, then evaluates the deadlines (R168). -/
theorem eventTick_initiator {s : State} (hr : s.role = .initiator) : eventTick s = evalDeadlines (countTick s) := by
  rw [eventTick, hr]

/-- A tick of the responder only counts (R170, R250). -/
theorem eventTick_responder {s : State} (hr : s.role = .responder) : eventTick s = countTick s := by
  rw [eventTick, hr]

/-- Settles O33 (R168, R250). -/
theorem tickEvaluatesAbortLingerRound : Obligations.TickEvaluatesAbortLingerRound := by
  intro s n u aborts
  have abort_iff : abortExpired (countTick s) = true ↔ aborts := abortExpired_iff (countTick s)
  refine ⟨eventTick_responder, fun hr => ?_⟩
  rw [eventTick_initiator hr]
  refine ⟨fun ha => ?_, fun hst => ?_, fun ha hst hv => ?_, evalDeadlines_of_resting (s := countTick s)⟩
  · rw [evalDeadlines_of_abort (abort_iff.mpr ha), abortResult_eq]
    rfl
  · rw [evalDeadlines_of_linger (s := countTick s) hst]
    exact ⟨fun h => if_pos h, fun h => if_neg (Nat.not_le.mpr h)⟩
  · rw [evalDeadlines_of_sending (s := countTick s) hst hv (mt abort_iff.mp ha)]
    exact ⟨fun h => if_pos h, fun h => if_neg (Nat.not_le.mpr h)⟩

/-! ### A SYN that nobody answers -/

/-- A tick after `n` ticks is the last of `n + 1`. -/
theorem ticksOnly_succ (n : Nat) (s : State) : ticksOnly (n + 1) s = eventTick (ticksOnly n s) := by
  induction n generalizing s with
  | zero => rfl
  | succ n ih => exact ih (eventTick s)

/-- The transmission of the outstanding SYN (R184, R186). -/
def synTx (s : State) : PortOp :=
  .tx (packetBytes (barePacket (flagsSyn s.params) s.p.seq s.p.ack 0)) s.c.peerAddr

/-- In SYN_SENT a retransmission whose `Tx` succeeds hands over the SYN and restarts the round (R169, R184). -/
theorem resendPending_synSent {s : State} (hst : s.c.state = .synSent) (ho : txOutcome s = .ok) :
    ∃ r, resendPending s =
      ((s.setP { s.p with sendTime := s.now }).setTxp r).setIo
        { s.io with trace := s.io.trace ++ [synTx s], txResults := s.io.txResults.tail } := by
  have no_read : noteSrcRead (s.setP { s.p with sendTime := s.now }) = s.setP { s.p with sendTime := s.now } := by
    simp [noteSrcRead, hst]
  have sends : resendPending s =
      txOrDie (barePacket (flagsSyn s.params) s.p.seq s.p.ack 0) (s.setP { s.p with sendTime := s.now }) := by
    rw [resendPending, sendPending, no_read]
    simp [pendingPacket, hst]
  exact ⟨_, sends.trans (txOrDie_ok (Nat.zero_le _) ho)⟩

/-- An initiator that has just sent its SYN, over a transport that never fails, with the counter far enough from its
wrap for the abort deadline. -/
structure SynJustSent (s : State) : Prop where
  role : s.role = .initiator
  state : s.c.state = .synSent
  valid : s.p.valid = true
  sendTime : s.p.sendTime = s.now
  lastActivity : s.c.lastActivity = s.now
  noWrap : s.now + abortTicks s.params < 2 ^ s.params.nowW
  txResults : s.io.txResults = { front := [], rest := .ok }

/-- `t` is `s` with `n` ticks counted and nothing received: the SYN was sent again at the end of each full round, and
the round runs from the last of them (R169). -/
structure SynWaiting (s : State) (n : Nat) (t : State) : Prop where
  straps : t.straps = s.straps
  now : t.now = s.now + n
  c : t.c = s.c
  p : t.p = { s.p with sendTime := s.now + n / roundTicks s.params * roundTicks s.params }
  txResults : t.io.txResults = s.io.txResults
  trace : t.io.trace = s.io.trace ++ List.replicate (n / roundTicks s.params) (synTx s)

/-- A round that ends with a tick is a further full one. -/
theorem div_succ_of_round_ends {n r : Nat} (hr : 0 < r) (h : r ≤ n + 1 - n / r * r) :
    (n + 1) / r = n / r + 1 ∧ (n + 1) / r * r = n + 1 := by
  have rest := Nat.mod_lt n hr
  have split := Nat.div_add_mod' n r
  have whole : n + 1 = (n / r + 1) * r := by rw [Nat.succ_mul]; omega
  have hdiv : (n + 1) / r = n / r + 1 := Nat.div_eq_of_eq_mul_left hr whole
  exact ⟨hdiv, by rw [hdiv, ← whole]⟩

/-- A round that goes on leaves the count of full ones. -/
theorem div_succ_of_round_runs {n r : Nat} (h : n + 1 - n / r * r < r) : (n + 1) / r = n / r := by
  have split := Nat.div_add_mod' n r
  refine Nat.div_eq_of_lt_le (by omega) ?_
  rw [Nat.succ_mul]
  omega

section
variable {s t : State} {n : Nat}

/-- No tick has passed. -/
theorem SynJustSent.waiting (hs : SynJustSent s) : SynWaiting s 0 s :=
  ⟨rfl, rfl, rfl, by simp [← hs.sendTime], rfl, by simp⟩

/-- The parameters stay. -/
theorem SynWaiting.params (h : SynWaiting s n t) : t.params = s.params := by
  rw [State.params_eq, h.straps, State.params_eq]

/-- The role stays. -/
theorem SynWaiting.role (h : SynWaiting s n t) (hs : SynJustSent s) : t.role = .initiator := by
  rw [State.role_eq, h.straps, ← State.role_eq, hs.role]

/-- The initiator still waits for the SYNACK. -/
theorem SynWaiting.state (h : SynWaiting s n t) (hs : SynJustSent s) : t.c.state = .synSent := by rw [h.c, hs.state]

/-- The transmission that repeats the SYN stays the same. -/
theorem SynWaiting.synTx_eq (h : SynWaiting s n t) : synTx t = synTx s := by
  simp [synTx, h.c, h.p, h.params]

/-- The next tick does not wrap the counter (R50). -/
theorem SynWaiting.countTick_now (h : SynWaiting s n t) (hs : SynJustSent s) (hn : n < abortTicks s.params) :
    (countTick t).now = s.now + (n + 1) := by
  have := hs.noWrap
  rw [Sys2Proof.Machine.countTick_now, h.params, h.now, nextNow, Nat.mod_eq_of_lt (by omega), Nat.add_assoc]

/-- The abort deadline runs since the SYN: the next tick finds it expired when it is the last one (R163, R165). -/
theorem SynWaiting.abortExpired_iff (h : SynWaiting s n t) (hs : SynJustSent s) (hn : n < abortTicks s.params) :
    abortExpired (countTick t) = true ↔ abortTicks s.params ≤ n + 1 := by
  have noWrap := hs.noWrap
  rw [Sys2Proof.Machine.abortExpired_iff, h.countTick_now hs hn, countTick_c, countTick_params, h.c, h.params,
    hs.lastActivity, elapsed_of_le (by omega) (by omega)]
  simp [hs.state]

/-- The round runs since the last transmission (R162, R165). -/
theorem SynWaiting.round_elapsed (h : SynWaiting s n t) (hs : SynJustSent s) (hn : n < abortTicks s.params) :
    elapsed (countTick t).params (countTick t).now (countTick t).p.sendTime =
      n + 1 - n / roundTicks s.params * roundTicks s.params := by
  have noWrap := hs.noWrap
  have sent := Nat.div_mul_le_self n (roundTicks s.params)
  have round_start : (countTick t).p.sendTime = s.now + n / roundTicks s.params * roundTicks s.params := by
    rw [countTick_p, h.p]
  rw [round_start, h.countTick_now hs hn, countTick_params, h.params, elapsed_of_le (by omega) (by omega)]
  omega

/-- A tick that ends a round sends the SYN again (R169). -/
theorem SynWaiting.resend (h : SynWaiting s n t) (hs : SynJustSent s) (hn : n < abortTicks s.params)
    (hround : 0 < roundTicks s.params)
    (ends : roundTicks s.params ≤ n + 1 - n / roundTicks s.params * roundTicks s.params) :
    SynWaiting s (n + 1) (resendPending (countTick t)) := by
  obtain ⟨count, start⟩ := div_succ_of_round_ends hround ends
  have ho : txOutcome (countTick t) = .ok := by rw [txOutcome, countTick_io, h.txResults, hs.txResults]; rfl
  have same_syn : synTx (countTick t) = synTx s := h.synTx_eq
  obtain ⟨r, sent⟩ := resendPending_synSent (s := countTick t) (h.state hs) ho
  rw [sent, same_syn, h.countTick_now hs hn]
  refine ⟨h.straps, h.countTick_now hs hn, h.c, ?_, ?_, ?_⟩
  · simp [h.p, start]
  · simp [h.txResults, hs.txResults, Feed.tail]
  · simp [h.trace, count, List.replicate_succ']

/-- A tick inside a round only counts (R168). -/
theorem SynWaiting.wait (h : SynWaiting s n t) (hs : SynJustSent s) (hn : n < abortTicks s.params)
    (runs : n + 1 - n / roundTicks s.params * roundTicks s.params < roundTicks s.params) :
    SynWaiting s (n + 1) (countTick t) :=
  have count := div_succ_of_round_runs runs
  ⟨h.straps, h.countTick_now hs hn, h.c, count ▸ h.p, h.txResults, count ▸ h.trace⟩

/-- A tick before the abort deadline (R168, R169). -/
theorem SynWaiting.eventTick (h : SynWaiting s n t) (hs : SynJustSent s) (hround : 0 < roundTicks s.params)
    (hn : n + 1 < abortTicks s.params) : SynWaiting s (n + 1) (eventTick t) := by
  have hn' : n < abortTicks s.params := Nat.lt_of_succ_lt hn
  have sending : (countTick t).c.state.sending = true := by rw [countTick_c, h.state hs]; rfl
  have valid : (countTick t).p.valid = true := by rw [countTick_p, h.p]; exact hs.valid
  have not_yet : ¬ abortExpired (countTick t) = true := by rw [h.abortExpired_iff hs hn']; omega
  rw [eventTick_initiator (h.role hs),
    evalDeadlines_of_sending sending valid not_yet, h.round_elapsed hs hn', countTick_params, h.params]
  split
  next ends => exact h.resend hs hn' hround ends
  next runs => exact h.wait hs hn' (Nat.not_le.mp runs)

/-- Before the abort deadline the initiator waits, having sent the SYN again once for each full round (R169). -/
theorem SynJustSent.ticksOnly_waiting (hs : SynJustSent s) (hround : 0 < roundTicks s.params)
    (hn : n < abortTicks s.params) : SynWaiting s n (ticksOnly n s) := by
  induction n with
  | zero => exact hs.waiting
  | succ n ih =>
    rw [ticksOnly_succ]
    exact (ih (Nat.lt_of_succ_lt hn)).eventTick hs hround hn

/-- On its last tick the abort deadline closes the connection, before the round is looked at (R168, R169, R312). -/
theorem SynJustSent.ticksOnly_closed (hs : SynJustSent s) (hround : 0 < roundTicks s.params)
    (habort : 0 < abortTicks s.params) :
    (ticksOnly (abortTicks s.params) s).c = { s.c with state := .closed, result := .errPeerUnresponsive } ∧
    (ticksOnly (abortTicks s.params) s).io.trace =
      s.io.trace ++ List.replicate ((abortTicks s.params - 1) / roundTicks s.params) (synTx s) := by
  obtain ⟨m, hm⟩ := Nat.exists_eq_add_one.mpr habort
  have before : m < abortTicks s.params := by omega
  have h := hs.ticksOnly_waiting hround before
  rw [hm, ticksOnly_succ, eventTick_initiator (h.role hs),
    evalDeadlines_of_abort ((h.abortExpired_iff hs before).mpr hm.le), abortResult_eq]
  exact ⟨by simp [h.c, hs.state], h.trace⟩

end

/-- Settles O35 (R169, R187, R312): under the defaults a round is 500 ticks and the abort deadline 10000. -/
theorem unansweredSynIsResentThenAborts : Obligations.UnansweredSynIsResentThenAborts := by
  intro s n role params state valid sendTime lastActivity noWrap txResults syn
  have round : roundTicks s.params = 500 := by rw [params]; rfl
  have abort : abortTicks s.params = 10000 := by rw [params]; rfl
  have same_syn : synTx s = syn := by rw [synTx, params]; rfl
  have hs : SynJustSent s :=
    ⟨role, state, valid, sendTime, lastActivity, by rw [abort, params]; exact noWrap, txResults⟩
  have hround : 0 < roundTicks s.params := by omega
  refine ⟨fun hn => ?_, ?_⟩
  · have h := hs.ticksOnly_waiting hround (n := n) (by omega)
    exact ⟨h.c, h.now, by rw [h.trace, round, same_syn]⟩
  · have h := hs.ticksOnly_closed hround (by omega)
    rwa [round, abort, same_syn] at h

end Sys2Proof.Machine
end

section
/-! What the initiator does with each packet (R182 to R200), at a start (R186), at a tick that retransmits (R169) and at
a receive failure (R208), as equations: the datagram that is handed over and the state that is left. -/

namespace Sys2Proof.Machine

/-! ### Arrival -/

/-- The state in which an active initiator handles a packet: the abort deadline runs anew (R166). -/
def restartAbort (s : State) : State := s.setC { s.c with lastActivity := s.now }

section
variable {s : State} {seq ack : Word32} {id : Word16} {b : List Byte}

/-- DATA at an active initiator (R182). -/
theorem exec_data_active (hr : s.role = .initiator) (ha : s.c.state.active = true) :
    exec (.data seq ack id b) s = .next (drop .rsvdFlags (restartAbort s)) := arrive_initiator_active hr ha

/-- SYN at an active initiator (R182). -/
theorem exec_syn_active (hr : s.role = .initiator) (ha : s.c.state.active = true) :
    exec (.syn seq ack id b) s = .next (drop .rsvdFlags (restartAbort s)) := arrive_initiator_active hr ha

/-- SYNACK at an active initiator (R188). -/
theorem exec_synack_active (hr : s.role = .initiator) (ha : s.c.state.active = true) :
    exec (.synack seq ack id b) s = .next (initiatorSynack seq ack id (restartAbort s)) :=
  arrive_initiator_active hr ha

/-- ACK at an active initiator (R191, R192). -/
theorem exec_ack_active (hr : s.role = .initiator) (ha : s.c.state.active = true) :
    exec (.ack seq ack id b) s = .next (initiatorAck ack (restartAbort s)) := arrive_initiator_active hr ha

/-- FIN at an active initiator (R197). -/
theorem exec_fin_active (hr : s.role = .initiator) (ha : s.c.state.active = true) :
    exec (.fin seq ack id b) s = .next (initiatorFin .fin seq ack (restartAbort s)) := arrive_initiator_active hr ha

/-- FINACK at an active initiator (R197). -/
theorem exec_finack_active (hr : s.role = .initiator) (ha : s.c.state.active = true) :
    exec (.finack seq ack id b) s = .next (initiatorFin .finack seq ack (restartAbort s)) :=
  arrive_initiator_active hr ha

/-! ### The packets a state expects, and the others -/

/-- The SYNACK that SYN_SENT waits for (R189). -/
theorem initiatorSynack_accepted (hst : s.c.state = .synSent) (hack : ack = addSeq s.params s.c.localSeq 1) :
    initiatorSynack seq ack id s = establish seq ack id s := by
  simp [initiatorSynack, hst, hack]

/-- Any other SYNACK is dropped (R182, R188). -/
theorem initiatorSynack_dropped (h : s.c.state ≠ .synSent ∨ ack ≠ addSeq s.params s.c.localSeq 1) :
    initiatorSynack seq ack id s = s := by
  unfold initiatorSynack
  cases hst : s.c.state with
  | synSent => exact if_neg (h.resolve_left (absurd hst))
  | idle | established | finSent | linger | closed => rfl

/-- The acknowledgment of the outstanding chunk (R191). -/
theorem initiatorAck_expected (hst : s.c.state = .established)
    (hack : ack = addSeq s.params s.c.localSeq (chunkLen s)) : initiatorAck ack s = advanceChunk s := by
  simp [initiatorAck, hst, hack]

/-- Any other ACK in ESTABLISHED (R192). -/
theorem initiatorAck_unexpected (hst : s.c.state = .established)
    (hack : ack ≠ addSeq s.params s.c.localSeq (chunkLen s)) : initiatorAck ack s = resendPending s := by
  simp [initiatorAck, hst, hack]

/-- Outside ESTABLISHED an ACK is dropped (R182, R193). -/
theorem initiatorAck_dropped (h : s.c.state ≠ .established) : initiatorAck ack s = s := by
  unfold initiatorAck
  cases hst : s.c.state with
  | established => exact absurd hst h
  | idle | synSent | finSent | linger | closed => rfl

/-- A bare FIN is the peer's whatever its `ack` (R197). -/
theorem isPeerFin_fin : isPeerFin .fin ack s = true := rfl

/-- A FINACK is the peer's FIN exactly when its `ack` matches (R197). -/
theorem isPeerFin_finack_iff : isPeerFin .finack ack s = true ↔ ack = addSeq s.params s.c.localSeq 1 := by
  simp [isPeerFin]

/-- The peer's FIN in FIN_SENT (R197). -/
theorem initiatorFin_finSent {kind : Kind} (hst : s.c.state = .finSent) (h : isPeerFin kind ack s = true) :
    initiatorFin kind seq ack s = enterLinger seq s := by
  simp [initiatorFin, hst, h]

/-- The peer's FIN in LINGER (R200). -/
theorem initiatorFin_linger {kind : Kind} (hst : s.c.state = .linger) (h : isPeerFin kind ack s = true) :
    initiatorFin kind seq ack s = finalAck seq s := by
  simp [initiatorFin, hst, h]

/-- What is not the peer's FIN, or comes before FIN_SENT, is dropped (R182). -/
theorem initiatorFin_dropped {kind : Kind}
    (h : s.c.state = .synSent ∨ s.c.state = .established ∨ isPeerFin kind ack s = false) :
    initiatorFin kind seq ack s = s := by
  unfold initiatorFin
  cases hst : s.c.state with
  | finSent | linger =>
    have foreign : isPeerFin kind ack s = false := by simpa [hst] using h
    simp [foreign]
  | idle | synSent | established | closed => rfl

end

/-- Settles O26 (R166, R182, R193). -/
theorem initiatorDropsUnexpectedKinds : Obligations.InitiatorDropsUnexpectedKinds := by
  intro s seq ack id b hr ha t r
  have fin_dropped : s.c.state = .synSent ∨ s.c.state = .established →
      ∀ kind, initiatorFin kind seq ack (restartAbort s) = t := fun h _ =>
    initiatorFin_dropped (s := restartAbort s) (h.imp (fun e => e) .inl)
  refine ⟨exec_data_active hr ha, exec_syn_active hr ha, fun h => ?_, fun h => ?_, fun h => ⟨?_, ?_⟩,
    fun h => ?_⟩
  · rw [exec_synack_active hr ha, initiatorSynack_dropped (s := restartAbort s) h]
    rfl
  · rw [exec_ack_active hr ha, initiatorAck_dropped (s := restartAbort s) h]
    rfl
  · rw [exec_fin_active hr ha, fin_dropped h]
  · rw [exec_finack_active hr ha, fin_dropped h]
  · have foreign : isPeerFin .finack ack (restartAbort s) = false :=
      Bool.eq_false_iff.mpr (mt isPeerFin_finack_iff.mp h)
    rw [exec_finack_active hr ha, initiatorFin_dropped (.inr (.inr foreign))]
    rfl

/-- Settles O28 (R202, log 21). -/
theorem initiatorIdleAndClosedIgnorePackets : Obligations.InitiatorIdleAndClosedIgnorePackets := by
  intro i s hr hst
  refine exec_initiator_inactive hr ?_
  rcases hst with hst | hst <;> rw [hst] <;> rfl

/-! ### Sending the outstanding packet -/

/-- The source read that rebuilding the outstanding packet issues (R184, R287). -/
def pendingReads (s : State) : List PortOp :=
  if s.c.state = .established then [.srcRead s.p.sourceOffset.toNat (chunkLen s)] else []

/-- The state after a successful `Tx` of `k` to the peer of `C`, the operations `reads` having come before it (R22,
R284). -/
def handedOver (reads : List PortOp) (k : Packet) (s : State) : State :=
  (s.setTxp (packetRegOf s.params k s.c.peerAddr)).setIo
    { s.io with
      trace := s.io.trace ++ (reads ++ [.tx (packetBytes k) s.c.peerAddr]), txResults := s.io.txResults.tail }

/-- A source read is no transmission. -/
theorem pendingReads_filter_isTx (s : State) : (pendingReads s).filter PortOp.isTx = [] := by
  unfold pendingReads
  split <;> rfl

/-- What `SrcRead` is issued before the transmission (R184). -/
theorem noteSrcRead_eq (s : State) :
    noteSrcRead s = s.setIo { s.io with trace := s.io.trace ++ pendingReads s } := by
  unfold noteSrcRead pendingReads
  split
  · rfl
  · rw [List.append_nil]
    rfl

section
variable {s : State} {k : Packet}

/-- `tx_or_die` of a packet that fits, as one change of the state (R204). -/
theorem txOrDie_of_ok (fits : k.payload.length ≤ s.params.maxPayload) (ho : txOutcome s = .ok) :
    txOrDie k s = handedOver [] k s := txOrDie_ok fits ho

/-- Sending the outstanding packet is `tx_or_die` of it after its source read (R184). -/
theorem sendPending_eq (hk : pendingPacket s = some k) :
    sendPending s = txOrDie k (s.setIo { s.io with trace := s.io.trace ++ pendingReads s }) := by
  rw [sendPending, hk, ← noteSrcRead_eq]

/-- The outstanding packet is handed over (R184). -/
theorem sendPending_ok (hk : pendingPacket s = some k) (fits : k.payload.length ≤ s.params.maxPayload)
    (ho : txOutcome s = .ok) : sendPending s = handedOver (pendingReads s) k s := by
  rw [sendPending_eq hk, txOrDie_ok, handedOver, ← List.append_assoc]
  exacts [rfl, fits, ho]

/-- The outstanding packet is handed over and the transport layer reports failure (R184, R204). -/
theorem sendPending_fail (hk : pendingPacket s = some k) (fits : k.payload.length ≤ s.params.maxPayload)
    (ho : txOutcome s = .fail) :
    sendPending s = closeConn .errTransport (handedOver (pendingReads s) k s) := by
  rw [sendPending_eq hk, txOrDie_fail, handedOver, ← List.append_assoc]
  exacts [rfl, fits, ho]

/-- `send_next(off)` with bytes left: the chunk at `off` is handed over (R190). -/
theorem sendNext_chunk_ok {off : Word32} (hq : s.params.Wf) (hst : s.c.state = .established)
    (hoff : off ≠ s.c.srcLen) (ho : txOutcome s = .ok) :
    let len := min s.params.chunk (s.c.srcLen.toNat - off.toNat)
    sendNext off s =
      handedOver [.srcRead off.toNat len]
        { seq := s.c.localSeq, ack := s.c.peerAckExpected, connId := s.c.connId, flags := flagsData
          payload := Memory.readBytes s.io.src off.toNat len }
        (armPending s.c.peerAckExpected off s) := by
  intro len
  have packet : pendingPacket (armPending s.c.peerAckExpected off s) =
      some
        { seq := s.c.localSeq, ack := s.c.peerAckExpected, connId := s.c.connId, flags := flagsData
          payload := Memory.readBytes s.io.src off.toNat len } := by
    simp only [pendingPacket, armPending_c, hst]
    rfl
  have reads : pendingReads (armPending s.c.peerAckExpected off s) = [.srcRead off.toNat len] := by
    rw [pendingReads, armPending_c, if_pos hst]
    rfl
  rw [sendNext, if_neg hoff, sendPending_ok packet (pendingPacket_fits packet hq) ho, reads]

/-- `send_next(off)` with nothing left: the FIN is handed over (R190, R195). -/
theorem sendNext_fin_ok {off : Word32} (hoff : off = s.c.srcLen) (ho : txOutcome s = .ok) :
    sendNext off s =
      handedOver [] (barePacket (flagsFin s.params) s.c.localSeq 0 s.c.connId) (enterFinSent off s) := by
  rw [sendNext, if_pos hoff]
  exact sendPending_ok (s := enterFinSent off s) rfl (Nat.zero_le _) ho

end

/-- Settles O34 (R169, R184). -/
theorem retransmissionIsIdentical : Obligations.RetransmissionIsIdentical := by
  intro s k hq hk ho
  have packet : pendingPacket (s.setP { s.p with sendTime := s.now }) = some k := hk
  have sent : resendPending s = handedOver (pendingReads s) k (s.setP { s.p with sendTime := s.now }) :=
    sendPending_ok packet (pendingPacket_fits hk hq) ho
  have trace : (resendPending s).io.trace =
      s.io.trace ++ (pendingReads s ++ [.tx (packetBytes k) s.c.peerAddr]) := by rw [sent]; rfl
  refine ⟨?_, ?_, by rw [sent]; rfl, by rw [sent]; rfl⟩
  · rw [issuedOps_of_trace trace, List.filter_append, pendingReads_filter_isTx]
    rfl
  · rw [sent]
    exact hk

/-! ### The handshake, the transfer and the teardown -/

/-- Settles O21 (R188, R189). -/
theorem synackEstablishesAndSends : Obligations.SynackEstablishesAndSends := by
  intro s seq ack id b hr hst hq ho hack pae len c k f
  have accepted : exec (.synack seq ack id b) s = .next (establish seq ack id (restartAbort s)) := by
    rw [exec_synack_active hr (by rw [hst]; rfl), initiatorSynack_accepted (s := restartAbort s) hst hack]
  refine ⟨fun hne => ?_, fun he => ?_⟩ <;> rw [accepted, establish]
  · rw [sendNext_chunk_ok]
    exacts [rfl, hq, rfl, Ne.symm hne, ho]
  · rw [sendNext_fin_ok]
    exacts [rfl, he.symm, ho]

/-- Settles O22 (R191, R195). -/
theorem expectedAckAdvances : Obligations.ExpectedAckAdvances := by
  intro s seq ack id b hr hst hq ho hack off len c k f
  have advanced : exec (.ack seq ack id b) s = .next (advanceChunk (restartAbort s)) := by
    rw [exec_ack_active hr (by rw [hst]; rfl), initiatorAck_expected (s := restartAbort s) hst hack]
  refine ⟨fun hne => ?_, fun he => ?_⟩ <;> subst hack <;> rw [advanced, advanceChunk]
  · rw [sendNext_chunk_ok]
    exacts [rfl, hq, hst, hne, ho]
  · rw [sendNext_fin_ok]
    exacts [rfl, he, ho]

/-- Settles O23 (R192). -/
theorem unexpectedAckResendsChunk : Obligations.UnexpectedAckResendsChunk := by
  intro s seq ack id b hr hst hq ho hack k
  have packet : pendingPacket s = some k := by rw [pendingPacket, hst]; rfl
  have reads : pendingReads s = [.srcRead s.p.sourceOffset.toNat (chunkLen s)] := if_pos hst
  have sent : resendPending (restartAbort s) =
      handedOver (pendingReads s) k ((restartAbort s).setP { s.p with sendTime := s.now }) :=
    sendPending_ok (s := (restartAbort s).setP { s.p with sendTime := s.now }) packet (pendingPacket_fits packet hq) ho
  rw [exec_ack_active hr (by rw [hst]; rfl), initiatorAck_unexpected (s := restartAbort s) hst hack, sent, reads]
  rfl

/-- The final ACK is handed over (R198). -/
theorem finalAck_ok {s : State} (seq : Word32) (ho : txOutcome s = .ok) :
    finalAck seq s =
      handedOver []
        (barePacket (flagsAck s.params) (addSeq s.params s.c.localSeq 1) (addSeq s.params seq 1) s.c.connId) s :=
  txOrDie_of_ok (Nat.zero_le _) ho

/-- Settles O24 (R197, R198). -/
theorem peerFinOpensLinger : Obligations.PeerFinOpensLinger := by
  intro s seq ack id b hr hst ho k t
  have active : s.c.state.active = true := by rw [hst]; rfl
  have opens : ∀ kind, isPeerFin kind ack (restartAbort s) = true →
      initiatorFin kind seq ack (restartAbort s) = t := fun kind h => by
    rw [initiatorFin_finSent (s := restartAbort s) hst h, enterLinger, finalAck_ok]
    exacts [rfl, ho]
  refine ⟨?_, fun hack => ?_⟩
  · rw [exec_fin_active hr active, opens _ isPeerFin_fin]
  · rw [exec_finack_active hr active, opens _ (isPeerFin_finack_iff.mpr hack)]

/-- Settles O25 (R164, R198, R200). -/
theorem lingerAnswersPeerFin : Obligations.LingerAnswersPeerFin := by
  intro s seq ack id b hr hst ho k t
  have active : s.c.state.active = true := by rw [hst]; rfl
  have answers : ∀ kind, isPeerFin kind ack (restartAbort s) = true →
      initiatorFin kind seq ack (restartAbort s) = t := fun kind h => by
    rw [initiatorFin_linger (s := restartAbort s) hst h, finalAck_ok (s := restartAbort s) seq ho]
    rfl
  refine ⟨?_, fun hack => ?_⟩
  · rw [exec_fin_active hr active, answers _ isPeerFin_fin]
  · rw [exec_finack_active hr active, answers _ (isPeerFin_finack_iff.mpr hack)]

/-! ### Start, tick and receive failure -/

/-- In responder role `E_START` does nothing (R254). -/
theorem eventStart_responder {s : State} (hr : s.role = .responder) : eventStart s = s := by rw [eventStart, hr]

/-- Outside IDLE `E_START` does nothing (R186). -/
theorem eventStart_of_ne_idle {s : State} (hst : s.c.state ≠ .idle) : eventStart s = s := by
  unfold eventStart
  split
  · exact if_neg hst
  · rfl

/-- In IDLE an initiator starts the transfer (R186). -/
theorem eventStart_idle {s : State} (hr : s.role = .initiator) (hst : s.c.state = .idle) :
    eventStart s = startTransfer s := by
  simp [eventStart, hr, hst]

/-- Settles O30 (R186, R254). -/
theorem startSendsSynOrRejectsOversize : Obligations.StartSendsSynOrRejectsOversize := by
  intro s
  refine ⟨fun h => h.elim eventStart_responder eventStart_of_ne_idle, fun hr hst => ?_⟩
  rw [eventStart_idle hr hst, startTransfer]
  refine ⟨fun big => if_pos big, fun fits => ?_⟩
  intro isn k t
  rw [if_neg (Nat.not_lt.mpr fits)]
  refine ⟨fun ho => ?_, fun ho => ?_⟩
  · rw [sendPending_ok]
    exacts [rfl, rfl, Nat.zero_le _, ho]
  · rw [sendPending_fail]
    exacts [rfl, rfl, Nat.zero_le _, ho]

/-- Settles O55 (R168, R204, R311). -/
theorem failedRetransmissionAtTickCloses : Obligations.FailedRetransmissionAtTickCloses := by
  intro s k hr hq ho n hk hv round abort
  have sending : s.c.state.sending = true := by rw [← pendingPacket_isSome, hk]; rfl
  have not_aborted : ¬ abortExpired (countTick s) = true := by
    rw [abortExpired_iff]
    rintro ⟨running, late⟩
    rcases abort with ⟨hst, off⟩ | early
    · simp [hst, off] at running
    · exact absurd late (Nat.not_le.mpr early)
  have sent : resendPending (countTick s) =
      closeConn .errTransport (handedOver (pendingReads s) k ((countTick s).setP { s.p with sendTime := n })) :=
    sendPending_fail (s := (countTick s).setP { s.p with sendTime := n }) hk (pendingPacket_fits hk hq) ho
  rw [eventTick_initiator hr, evalDeadlines_of_sending (s := countTick s) sending hv not_aborted]
  exact (if_pos round).trans sent

section
variable {s : State}

/-- A receive failure is fatal for an active initiator (R208). -/
theorem eventRxErr_active (hr : s.role = .initiator) (ha : s.c.state.active = true) :
    eventRxErr s = closeConn .errTransport s := by
  simp [eventRxErr, hr, ha]

/-- In IDLE and CLOSED an initiator ignores a receive failure (R208). -/
theorem eventRxErr_inactive (hr : s.role = .initiator) (ha : s.c.state.active = false) : eventRxErr s = s := by
  simp [eventRxErr, hr, ha]

/-- The responder notes a receive failure (R254). -/
theorem eventRxErr_responder (hr : s.role = .responder) : eventRxErr s = drop .rxErr s := by rw [eventRxErr, hr]

end

/-- Settles O31 (R208, R254). -/
theorem receiveErrorByRole : Obligations.ReceiveErrorByRole :=
  fun _ => ⟨eventRxErr_active, eventRxErr_inactive, eventRxErr_responder⟩

end Sys2Proof.Machine
end

section
/-! Two runs of one event of the initiator, compared. The rules read only what `SameToInitiator` lists, and each ends
with its transmission; so a relation that the single changes keep, and that a transmission turns into `Q`, makes `Q` of
every event. With it follow what takes no part in an event (R207) and what a failed `Tx` leaves (R204). -/

namespace Sys2Proof.Machine

/-- The two states agree in everything that a rule of the initiator reads before it transmits. -/
structure SameToInitiator (s s' : State) : Prop where
  straps : s'.straps = s.straps
  now : s'.now = s.now
  c : s'.c = s.c
  p : s'.p = s.p
  src : s'.io.src = s.io.src
  draws : s'.io.draws = s.io.draws

/-- `R` relates two runs of an event of the initiator up to its transmission: it is kept by each change that can come
before, and gives `Q` at the end, with a transmission (R204) or without. -/
structure InitiatorSim (R Q : State → State → Prop) : Prop where
  same : ∀ {s s'}, R s s' → SameToInitiator s s'
  setNow : ∀ {s s'} (n : Nat), R s s' → R (s.setNow n) (s'.setNow n)
  setC : ∀ {s s'} (c : Conn), R s s' → R (s.setC c) (s'.setC c)
  setP : ∀ {s s'} (p : PendingSend), R s s' → R (s.setP p) (s'.setP p)
  takeDraw : ∀ {s s'}, R s s' → R (takeDraw s) (takeDraw s')
  drop : ∀ {s s'} (b : StickyBit), R s s' → R (drop b s) (drop b s')
  srcRead : ∀ {s s'} (off len : Nat), R s s' → R (emit (.srcRead off len) s) (emit (.srcRead off len) s')
  silent : ∀ {s s'}, R s s' → Q s s'
  txOrDie : ∀ {s s'} (k : Packet), R s s' → Q (txOrDie k s) (txOrDie k s')

section
variable {s s' : State}

/-- The parameters are among the straps. -/
theorem SameToInitiator.params (h : SameToInitiator s s') : s'.params = s.params := by
  rw [State.params_eq, h.straps, State.params_eq]

/-- The role is among the straps. -/
theorem SameToInitiator.role (h : SameToInitiator s s') : s'.role = s.role := by
  rw [State.role_eq, h.straps, State.role_eq]

/-- The length of the outstanding chunk (R185). -/
theorem SameToInitiator.chunkLen_eq (h : SameToInitiator s s') : chunkLen s' = chunkLen s := by
  rw [chunkLen, h.params, h.c, h.p, chunkLen]

/-- The outstanding packet (R184). -/
theorem SameToInitiator.pendingPacket_eq (h : SameToInitiator s s') : pendingPacket s' = pendingPacket s := by
  unfold pendingPacket
  rw [h.params, h.c, h.p, h.src, h.chunkLen_eq]

/-- What counts as the peer's FIN (R197). -/
theorem SameToInitiator.isPeerFin_eq (h : SameToInitiator s s') (kind : Kind) (ack : Word32) :
    isPeerFin kind ack s' = isPeerFin kind ack s := by
  rw [isPeerFin, h.params, h.c, isPeerFin]

/-- Which deadlines are expired (R162 to R165). -/
theorem SameToInitiator.deadlines_eq (h : SameToInitiator s s') :
    abortExpired s' = abortExpired s ∧ lingerExpired s' = lingerExpired s ∧ roundExpired s' = roundExpired s ∧
      abortResult s' = abortResult s := by
  unfold abortExpired abortRunning lingerExpired roundExpired abortResult
  rw [h.params, h.now, h.c, h.p]
  exact ⟨rfl, rfl, rfl, rfl⟩

end

namespace InitiatorSim

variable {R Q : State → State → Prop} {s s' : State} (sim : InitiatorSim R Q) (h : R s s')
include sim h

/-- `close(res)` (R205). -/
theorem closeConn (r : Result) : Q (closeConn r s) (closeConn r s') := by
  unfold Sys2Proof.Machine.closeConn
  rw [(sim.same h).c, (sim.same h).p]
  exact sim.silent (sim.setP _ (sim.setC _ h))

/-- A new outstanding packet (R186, R190). -/
theorem armPending (ack off : Word32) : R (armPending ack off s) (armPending ack off s') := by
  unfold Sys2Proof.Machine.armPending
  rw [(sim.same h).c, (sim.same h).now]
  exact sim.setP _ h

/-- Sending the outstanding packet (R184). -/
theorem sendPending : Q (sendPending s) (sendPending s') := by
  have same := sim.same h
  have reads : R (noteSrcRead s) (noteSrcRead s') := by
    unfold noteSrcRead
    rw [same.c, same.p, same.chunkLen_eq]
    split
    · exact sim.srcRead _ _ h
    · exact h
  unfold Sys2Proof.Machine.sendPending
  rw [same.pendingPacket_eq]
  cases pendingPacket s with
  | none => exact sim.silent h
  | some k => exact sim.txOrDie k reads

/-- Sending it once more (R169). -/
theorem resendPending : Q (resendPending s) (resendPending s') := by
  unfold Sys2Proof.Machine.resendPending
  rw [(sim.same h).p, (sim.same h).now]
  exact sim.sendPending (sim.setP _ h)

/-- `send_next(off)` (R190). -/
theorem sendNext (off : Word32) : Q (sendNext off s) (sendNext off s') := by
  have same := sim.same h
  unfold Sys2Proof.Machine.sendNext enterFinSent
  rw [same.c, same.now]
  split
  · exact sim.sendPending (sim.armPending (sim.setC _ h) 0 off)
  · exact sim.sendPending (sim.armPending h _ off)

/-- A SYNACK (R188, R189). -/
theorem initiatorSynack (seq ack : Word32) (id : Word16) :
    Q (initiatorSynack seq ack id s) (initiatorSynack seq ack id s') := by
  have same := sim.same h
  unfold Sys2Proof.Machine.initiatorSynack establish
  rw [same.c, same.params]
  cases s.c.state with
  | synSent =>
    dsimp only
    split
    · exact sim.sendNext (sim.setC _ h) 0
    · exact sim.silent h
  | idle | established | finSent | linger | closed => exact sim.silent h

/-- An ACK (R191, R192). -/
theorem initiatorAck (ack : Word32) : Q (initiatorAck ack s) (initiatorAck ack s') := by
  have same := sim.same h
  unfold Sys2Proof.Machine.initiatorAck advanceChunk nextOffset
  rw [same.c, same.p, same.params, same.chunkLen_eq]
  cases s.c.state with
  | established =>
    dsimp only
    split
    · exact sim.sendNext (sim.setC _ h) _
    · exact sim.resendPending h
  | idle | synSent | finSent | linger | closed => exact sim.silent h

/-- `final_ack()` (R198). -/
theorem finalAck (seq : Word32) : Q (finalAck seq s) (finalAck seq s') := by
  unfold Sys2Proof.Machine.finalAck
  rw [(sim.same h).c, (sim.same h).params]
  exact sim.txOrDie _ h

/-- A FIN or FINACK (R197, R200). -/
theorem initiatorFin (kind : Kind) (seq ack : Word32) :
    Q (initiatorFin kind seq ack s) (initiatorFin kind seq ack s') := by
  have same := sim.same h
  unfold Sys2Proof.Machine.initiatorFin enterLinger
  rw [same.isPeerFin_eq, same.c, same.p, same.now]
  cases s.c.state with
  | finSent =>
    dsimp only
    split
    · exact sim.finalAck (sim.setC _ (sim.setP _ h)) seq
    · exact sim.silent h
  | linger =>
    dsimp only
    split
    · exact sim.finalAck h seq
    · exact sim.silent h
  | idle | synSent | established | closed => exact sim.silent h

/-- `E_START` (R186). -/
theorem eventStart (hr : s.role = .initiator) : Q (eventStart s) (eventStart s') := by
  have same := sim.same h
  have draw : drawValue s' = drawValue s := by rw [drawValue, same.draws, drawValue]
  unfold Sys2Proof.Machine.eventStart startTransfer
  rw [same.role, same.c, same.params, same.now, draw, hr]
  dsimp only
  split
  · split
    · exact sim.closeConn h _
    · exact sim.sendPending (sim.armPending (sim.setC _ (sim.takeDraw h)) 0 0)
  · exact sim.silent h

/-- `E_TICK` (R168). -/
theorem eventTick (hr : s.role = .initiator) : Q (eventTick s) (eventTick s') := by
  have same := sim.same h
  have counted : R (countTick s) (countTick s') := by
    unfold countTick
    rw [same.params, same.now]
    exact sim.setNow _ h
  obtain ⟨abort, linger, round, result⟩ := (sim.same counted).deadlines_eq
  rw [eventTick_initiator hr, eventTick_initiator (same.role.trans hr)]
  unfold evalDeadlines
  rw [abort, linger, round, result]
  split
  · exact sim.closeConn counted _
  · split
    · exact sim.closeConn counted _
    · split
      · exact sim.resendPending counted
      · exact sim.silent counted

/-- The arrival of a packet (R166, R202), whose rule `f` at the initiator gives `Q`. -/
theorem arrive (hr : s.role = .initiator) {f g : State → State} (rule : ∀ {u u'}, R u u' → Q (f u) (f u'))
    {t t' : State} (ht : arrive f g s = .next t) (ht' : arrive f g s' = .next t') : Q t t' := by
  have same := sim.same h
  unfold Sys2Proof.Machine.arrive at ht ht'
  rw [hr] at ht
  rw [same.role, hr, same.c, same.now] at ht'
  dsimp only at ht ht'
  split at ht
  · rename_i active
    rw [if_pos active] at ht'
    cases ht
    cases ht'
    exact rule (sim.setC _ h)
  · rename_i inactive
    rw [if_neg inactive] at ht'
    cases ht
    cases ht'
    exact sim.silent h

/-- Every packet (R182). -/
theorem exec (hr : s.role = .initiator) (i : Instr) {t t' : State} (ht : exec i s = .next t)
    (ht' : exec i s' = .next t') : Q t t' := by
  cases i with
  | data => exact sim.arrive h hr (fun hu => sim.silent (sim.drop _ hu)) ht ht'
  | syn => exact sim.arrive h hr (fun hu => sim.silent (sim.drop _ hu)) ht ht'
  | synack seq ack id => exact sim.arrive h hr (fun hu => sim.initiatorSynack hu seq ack id) ht ht'
  | ack seq ack => exact sim.arrive h hr (fun hu => sim.initiatorAck hu ack) ht ht'
  | fin seq ack => exact sim.arrive h hr (fun hu => sim.initiatorFin hu .fin seq ack) ht ht'
  | finack seq ack => exact sim.arrive h hr (fun hu => sim.initiatorFin hu .finack seq ack) ht ht'

end InitiatorSim

/-! ### What takes no part in an event -/

/-- `tx_or_die` of a packet that does not fit (R132, R333). -/
theorem txOrDie_refused {k : Packet} {s : State} (h : s.params.maxPayload < k.payload.length) :
    txOrDie k s = raiseSticky .encLen (s.setTxp (packetRegOf s.params k s.c.peerAddr)) := by
  rw [txOrDie, transmit_refused h]

/-- `tx_or_die` does not look at `RXP` (R207). -/
theorem txOrDie_setRxp (k : Packet) (r : PacketReg) (s : State) :
    txOrDie k (s.setRxp r) = (txOrDie k s).setRxp r := by
  by_cases fits : k.payload.length ≤ s.params.maxPayload
  · cases ho : txOutcome s with
    | ok => rw [txOrDie_ok fits ho, txOrDie_ok (s := s.setRxp r) fits ho]; rfl
    | fail => rw [txOrDie_fail fits ho, txOrDie_fail (s := s.setRxp r) fits ho]; rfl
  · have long := Nat.not_le.mp fits
    rw [txOrDie_refused long, txOrDie_refused (s := s.setRxp r) long]
    rfl

/-- Two runs that differ in `RXP` alone still do at the end (R207). -/
theorem initiatorSim_setRxp (r : PacketReg) :
    InitiatorSim (fun s s' => s' = s.setRxp r) (fun t t' => t' = t.setRxp r) where
  same := by rintro s _ rfl; exact ⟨rfl, rfl, rfl, rfl, rfl, rfl⟩
  setNow n := by rintro rfl; rfl
  setC c := by rintro rfl; rfl
  setP p := by rintro rfl; rfl
  takeDraw := by rintro s _ rfl; rfl
  drop b := by rintro rfl; rfl
  srcRead off len := by rintro rfl; rfl
  silent h := h
  txOrDie k := by rintro rfl; exact txOrDie_setRxp k r _

/-- The initiator does not look at what the responder would do with the packet (R52). -/
theorem arrive_initiator_congr {f g g' : State → State} {s : State} (hr : s.role = .initiator) :
    arrive f g s = arrive f g' s := by
  rw [arrive, arrive, hr]

/-- Settles O29 (R111, R189, R207). -/
theorem initiatorIgnoresIdAndSender : Obligations.InitiatorIgnoresIdAndSender := by
  intro s seq seq' ack ack' id id' b b' r hr
  refine ⟨arrive_initiator_congr hr, arrive_initiator_congr hr, rfl, rfl, fun h => ?_, arrive_initiator_congr hr,
    arrive_initiator_congr hr, fun i t ht => ?_⟩
  · cases ha : s.c.state.active with
    | false => rw [exec_initiator_inactive hr ha, exec_initiator_inactive hr ha]
    | true =>
      rw [exec_synack_active hr ha, exec_synack_active hr ha, initiatorSynack_dropped (s := restartAbort s) h,
        initiatorSynack_dropped (s := restartAbort s) h]
  · obtain ⟨t', ht'⟩ := exec_has_next i (s.setRxp r)
    rw [ht', (initiatorSim_setRxp r).exec rfl hr i ht ht']

/-! ### A failed transmission -/

/-- The state with the next answer of `Tx` turned into success. -/
def answerOk (s : State) : State :=
  s.setIo { s.io with txResults := { front := .ok :: s.io.txResults.front.tail, rest := s.io.txResults.rest } }

/-- After `s` the run has come to `u`, before any transmission, with a `Tx` ahead that fails; `u'` is the same but for
that answer. -/
structure FailsAhead (s u u' : State) : Prop where
  answer : u' = answerOk u
  outcome : txOutcome u = .fail
  silent : ∃ ops, u.io.trace = s.io.trace ++ ops ∧ ops.countP PortOp.isTx = 0

/-- An event from `s` that ends in `t`, and in `u` when its `Tx` succeeds: it transmits at most once, and if it does
then `t` is `u` closed with `ERR_TRANSPORT` (R204, R311). -/
def ClosedByFailure (s t u : State) : Prop :=
  (issuedOps s t).countP PortOp.isTx ≤ 1 ∧
    ((issuedOps s t).countP PortOp.isTx = 1 → t = closeConn .errTransport u)

section
variable {s t u u' : State}

/-- Nothing has been transmitted. -/
theorem ClosedByFailure.of_silent (h : ∃ ops, t.io.trace = s.io.trace ++ ops ∧ ops.countP PortOp.isTx = 0) :
    ClosedByFailure s t u := by
  obtain ⟨ops, trace, noTx⟩ := h
  rw [ClosedByFailure, issuedOps_of_trace trace, noTx]
  exact ⟨Nat.zero_le _, nofun⟩

/-- The failing transmission itself (R204). -/
theorem FailsAhead.txOrDie (h : FailsAhead s u u') (k : Packet) :
    ClosedByFailure s (txOrDie k u) (txOrDie k u') := by
  obtain ⟨rfl, fail, ops, trace, noTx⟩ := h
  by_cases fits : k.payload.length ≤ u.params.maxPayload
  · have sent : (Sys2Proof.Machine.txOrDie k u).io.trace =
        s.io.trace ++ (ops ++ [.tx (packetBytes k) u.c.peerAddr]) := by
      rw [txOrDie_fail fits fail, ← List.append_assoc, ← trace]
      rfl
    have once : (ops ++ [PortOp.tx (packetBytes k) u.c.peerAddr]).countP PortOp.isTx = 1 := by
      rw [List.countP_append, noTx]
      rfl
    rw [ClosedByFailure, issuedOps_of_trace sent, once, txOrDie_fail fits fail, txOrDie_ok (s := answerOk u) fits rfl]
    exact ⟨Nat.le_refl _, fun _ => rfl⟩
  · rw [txOrDie_refused (Nat.not_le.mp fits)]
    exact .of_silent ⟨ops, trace, noTx⟩

end

/-- Up to its transmission an event runs the same whatever `Tx` will answer (R204). -/
theorem initiatorSim_failsAhead (s : State) : InitiatorSim (FailsAhead s) (ClosedByFailure s) where
  same := by rintro u _ ⟨rfl, -, -⟩; exact ⟨rfl, rfl, rfl, rfl, rfl, rfl⟩
  setNow n := by rintro ⟨rfl, fail, silent⟩; exact ⟨rfl, fail, silent⟩
  setC c := by rintro ⟨rfl, fail, silent⟩; exact ⟨rfl, fail, silent⟩
  setP p := by rintro ⟨rfl, fail, silent⟩; exact ⟨rfl, fail, silent⟩
  takeDraw := by rintro u _ ⟨rfl, fail, silent⟩; exact ⟨rfl, fail, silent⟩
  drop b := by rintro ⟨rfl, fail, silent⟩; exact ⟨rfl, fail, silent⟩
  srcRead off len := by
    rintro ⟨rfl, fail, ops, trace, noTx⟩
    refine ⟨rfl, fail, ops ++ [.srcRead off len], ?_, ?_⟩
    · rw [emit_io, trace, List.append_assoc]
    · rw [List.countP_append, noTx]
      rfl
  silent h := .of_silent h.silent
  txOrDie k h := h.txOrDie k

/-- Settles O27 (R204, R205, R311). -/
theorem initiatorTxFailureCloses : Obligations.InitiatorTxFailureCloses := by
  intro s hr fail s' closes
  have sim := initiatorSim_failsAhead s
  have start : FailsAhead s s s' := ⟨rfl, fail, [], (List.append_nil _).symm, rfl⟩
  exact ⟨fun i _ _ ht hu => sim.exec start hr i ht hu, sim.eventStart start hr, sim.eventTick start hr⟩

end Sys2Proof.Machine
end

section
/-! The step at a datagram that the arbiter hands over (R182, R231, R282): what is executed and what is dropped. And
CLOSED, which no event but a reset leaves (R203). -/

namespace Sys2Proof.Machine

/-! ### The receive path -/

section
variable {s t : State} {d : Datagram} {k : Packet} {i : Instr}

/-- The discard of R202. -/
theorem receive_discarded (hd : discardsRx s = true) : receive d s = .done (noteTruncation d s) := if_pos hd

/-- A datagram that `DECODE` refuses (R315). -/
theorem receive_malformed (hd : discardsRx s = false)
    (hk : decodePacket s.params (deliveredBytes s.params d) = none) :
    receive d s = .done (drop .malformed (noteTruncation d s)) := by
  simp [receive, hd, hk]

/-- A packet of a reserved kind (R150). -/
theorem receive_reserved (hd : discardsRx s = false)
    (hk : decodePacket s.params (deliveredBytes s.params d) = some k) (hi : classifyPacket s.params k = none) :
    receive d s = .done (receiveReserved (loadRxp k d.peer (noteTruncation d s))) := by
  simp [receive, hd, hk, hi]

/-- A packet to execute (R182, R231). -/
theorem receive_run (hd : discardsRx s = false)
    (hk : decodePacket s.params (deliveredBytes s.params d) = some k) (hi : classifyPacket s.params k = some i) :
    receive d s = .run i (loadRxp k d.peer (noteTruncation d s)) := by
  simp [receive, hd, hk, hi]

/-- A step that the receive path completes. -/
theorem step_of_receive_done (ha : arbitrate (takeTurn s).io = some (.rx d))
    (h : receive d (served (.rx d) s) = .done t) : step s = .next t := by
  have fetched : fetchEvent s = .done t := by rw [fetchEvent, ha]; exact h
  rw [step, fetched]

/-- A step that executes the packet received. -/
theorem step_of_receive_run (ha : arbitrate (takeTurn s).io = some (.rx d))
    (h : receive d (served (.rx d) s) = .run i t) : step s = exec i t := by
  have fetched : fetchEvent s = .run i t := by rw [fetchEvent, ha]; exact h
  rw [step, fetched]

/-- The note of an oversize datagram as one write of `STICKY` (R282). -/
theorem noteTruncation_eq (d : Datagram) (s : State) :
    noteTruncation d s =
      s.setSticky
        (if s.params.hdrLen + s.params.maxPayload < d.bytes.length then stickyWith .rxTrunc s.sticky
          else s.sticky) := by
  unfold noteTruncation maxDgram
  split <;> rfl

/-- The refresh of R166 as one write of `C`. -/
theorem refreshActivity_eq (s : State) :
    refreshActivity s = s.setC (if s.role = .initiator then { s.c with lastActivity := s.now } else s.c) := by
  unfold refreshActivity
  cases s.role <;> rfl

/-- The responder discards nothing. -/
theorem discardsRx_responder (hr : s.role = .responder) : discardsRx s = false := by simp [discardsRx, hr]

/-- An initiator that examines datagrams discards none (R182). -/
theorem discardsRx_active (ha : s.c.state.active = true) : discardsRx s = false := by simp [discardsRx, ha]

/-- An initiator in IDLE or CLOSED discards every datagram (R202). -/
theorem discardsRx_resting (hr : s.role = .initiator) (hst : s.c.state = .idle ∨ s.c.state = .closed) :
    discardsRx s = true := by
  rcases hst with hst | hst <;> simp [discardsRx, hr, hst, ConnState.active]

/-- The payload of a decoded packet is the one the caller took (R104). -/
theorem readHeader_payload {b bytes : List Byte} (h : readHeader b bytes = some k) : k.payload = b := by
  unfold readHeader at h
  split at h
  · cases h
    rfl
  · cases h

/-- The bytes delivered are at most `MAX_DGRAM`, so a decoded payload fits (R104, R282). -/
theorem payload_le_of_delivered {q : Params} (hk : decodePacket q (deliveredBytes q d) = some k) :
    k.payload.length ≤ q.maxPayload := by
  unfold decodePacket at hk
  split at hk
  · cases hk
  · rw [readHeader_payload hk, deliveredBytes, maxDgram, List.length_drop, List.length_take]
    omega

/-- A datagram shorter than the header stays so on delivery, and `DECODE` refuses it (R282, R315). -/
theorem decodePacket_short {q : Params} (h : d.bytes.length < q.hdrLen) :
    decodePacket q (deliveredBytes q d) = none := by
  refine if_pos ?_
  rw [deliveredBytes, List.length_take]
  omega

/-- A packet of a reserved kind is no instruction (R108). -/
theorem classifyPacket_rsvd {q : Params} (h : kindOf q k.flags = .rsvd) : classifyPacket q k = none := by
  rw [classifyPacket, h]

/-- What `decode` answers `ok` to is classified as that instruction (R136). -/
theorem classifyPacket_of_decode {q : Params} {b : List Byte} (h : decode q b = .ok i) :
    classifyPacket q (instrPacket q i) = some i := by
  have hk := decodePacket_of_decode h
  unfold decode at h
  simp only [hk] at h
  split at h
  · cases h
  · rename_i j hj
    cases h
    exact hj

end

/-- Settles O36 (R182, R231, R282; log 6). -/
theorem stepRunsDecodedInstruction : Obligations.StepRunsDecodedInstruction := by
  intro s d i ha hd hi u
  have hk : decodePacket u.params (deliveredBytes u.params d) = some (instrPacket u.params i) :=
    decodePacket_of_decode hi
  refine ⟨by simpa using payload_le_of_delivered hk, ?_⟩
  rw [step_of_receive_run ha (receive_run hd hk (classifyPacket_of_decode hi)), noteTruncation_eq]
  rfl

/-- Settles O37 (R150, R202, R282, R315; log 6). -/
theorem stepDropsWhatIsNotExecuted : Obligations.StepDropsWhatIsNotExecuted := by
  intro s d ha u v
  have noted : noteTruncation d (served (.rx d) s) = v := noteTruncation_eq d _
  refine ⟨fun hr hst => ?_, fun h => ?_⟩
  · rw [step_of_receive_done ha (receive_discarded (discardsRx_resting hr hst)), noted]
  · have hd : discardsRx (served (.rx d) s) = false := h.elim discardsRx_responder discardsRx_active
    refine ⟨fun short => ?_, fun k hk rsvd => ?_⟩
    · rw [step_of_receive_done ha (receive_malformed hd (decodePacket_short short)), noted]
      rfl
    · rw [step_of_receive_done ha (receive_reserved hd hk (classifyPacket_rsvd rsvd)), noted,
        receiveReserved, refreshActivity_eq]
      rfl

/-! ### CLOSED -/

/-- Settles O44 (R202, R203): the turn leaves both records of a CLOSED initiator, a datagram is discarded, and no other
event acts. -/
theorem closedIsTerminal : Obligations.ClosedIsTerminal := by
  intro s t hr hst h hreset
  have rest : ∀ e, (served e s).role = .initiator ∧ (served e s).c.state = .closed := fun e =>
    ⟨(takeTurn_role s).trans hr, by rw [(served_frame e s).cKept (by simp [hst]), hst]⟩
  have kept : ∀ {u}, TurnFrame s u → u.c = s.c ∧ u.p = s.p ∧ u.slots = s.slots ∧ u.io.trace = s.io.trace :=
    fun f => ⟨f.cKept (by simp [hst]), f.p, f.slots, f.trace⟩
  rcases step_cases h with ⟨-, rfl⟩ | ⟨e, -⟩ | ⟨-, rfl⟩ | ⟨-, rfl⟩ | ⟨-, rfl⟩ | ⟨d, -, hrx⟩
  · exact kept (takeTurn_frame s)
  · exact absurd e hreset
  · obtain ⟨role, closed⟩ := rest .rxErr
    rw [eventRxErr_inactive role (by rw [closed]; rfl)]
    exact kept (served_frame _ s)
  · rw [eventStart_of_ne_idle (by simp [(rest .start).2])]
    exact kept (served_frame _ s)
  · obtain ⟨role, closed⟩ := rest .tick
    rw [eventTick_initiator role, evalDeadlines_of_resting (s := countTick (served .tick s)) (.inr closed)]
    exact kept (u := served .tick s) (served_frame _ s)
  · obtain ⟨role, closed⟩ := rest (.rx d)
    have discarded : discardsRx (served (.rx d) s) = true := discardsRx_resting role (.inr closed)
    rcases hrx with ⟨-, rfl⟩ | ⟨hd, -⟩ | ⟨_, hd, -⟩ | ⟨_, _, hd, -⟩
    · rw [noteTruncation_eq]
      exact kept (u := served (.rx d) s) (served_frame _ s)
    all_goals rw [discarded] at hd; cases hd

end Sys2Proof.Machine
end

section
/-! What the responder does with each packet (R230 to R248), as equations. A packet that finds its slot leaves a state
`slotLeft`: that slot written once, and the operations issued on the way. -/

namespace Sys2Proof.Machine

/-! ### Arrival -/

section
variable {s : State} {seq ack : Word32} {id : Word16} {b : List Byte}

/-- DATA at the responder (R144, R231). -/
theorem exec_data_responder (hr : s.role = .responder) :
    exec (.data seq ack id b) s = .next (responderData false seq ack id b s) := arrive_responder hr

/-- ACK at the responder (R147, R231). -/
theorem exec_ack_responder (hr : s.role = .responder) :
    exec (.ack seq ack id b) s = .next (responderData true seq ack id b s) := arrive_responder hr

/-- FIN at the responder (R145, R231). -/
theorem exec_fin_responder (hr : s.role = .responder) :
    exec (.fin seq ack id b) s = .next (responderFin seq id s) := arrive_responder hr

/-- SYN at the responder (R146, R231). -/
theorem exec_syn_responder (hr : s.role = .responder) :
    exec (.syn seq ack id b) s = .next (responderSyn seq s) := arrive_responder hr

/-- SYNACK at the responder (R149, R248). -/
theorem exec_synack_responder (hr : s.role = .responder) :
    exec (.synack seq ack id b) s = .next (drop .rsvdFlags s) := arrive_responder hr

/-- FINACK at the responder (R148, R248). -/
theorem exec_finack_responder (hr : s.role = .responder) :
    exec (.finack seq ack id b) s = .next (drop .rsvdFlags s) := arrive_responder hr

/-! ### Packets that find no slot -/

/-- DATA or ACK whose id no slot has (R237). -/
theorem responderData_missed {pureAck : Bool} (hl : lookupSlot s id = none) :
    responderData pureAck seq ack id b s = drop .lookupMiss s := by rw [responderData, hl]

/-- A FIN whose id no slot has (R237). -/
theorem responderFin_missed (hl : lookupSlot s id = none) : responderFin seq id s = drop .lookupMiss s := by
  rw [responderFin, hl]

/-- A SYN that finds no candidate (R235). -/
theorem responderSyn_full (hf : findCandidate s = none) : responderSyn seq s = drop .tblFull s := by
  rw [responderSyn, hf]

/-- A slot is a candidate when it is free or inactive for `T_INACT` (R232). -/
theorem slotCandidate_iff (q : Params) (now : Nat) (x : Slot) :
    slotCandidate q now x = true ↔ x.inUse = false ∨ inactTicks q ≤ elapsed q now x.lastActivity := by
  simp [slotCandidate, expired_iff]

/-- A slot is no candidate when it is in use and active within `T_INACT` (R232). -/
theorem slotCandidate_eq_false_iff (q : Params) (now : Nat) (x : Slot) :
    slotCandidate q now x = false ↔ x.inUse = true ∧ elapsed q now x.lastActivity < inactTicks q := by
  rw [← Bool.not_eq_true, slotCandidate_iff, not_or, Bool.not_eq_false, Nat.not_le]

/-- The SYN scan finds `n` exactly when `n` is a candidate of the table below which there is none (R233). -/
theorem findCandidate_eq_some_iff {n : Nat} :
    findCandidate s = some n ↔
      n < s.slots.length ∧ slotCandidate s.params s.now (s.slot n) = true ∧
        ∀ j < n, slotCandidate s.params s.now (s.slot j) = false := by
  refine ⟨findCandidate_some, fun ⟨hn, candidate, below⟩ => List.findIdx?_eq_some_iff_getElem.mpr ⟨hn, ?_, ?_⟩⟩
  · rwa [← State.slot_of_lt hn]
  · intro j hj
    rw [← State.slot_of_lt (hj.trans hn), below j hj]
    exact Bool.false_ne_true

end

/-- Settles O11 (R237). -/
theorem lookupMissDropsPacket : Obligations.LookupMissDropsPacket := by
  intro s seq ack id b hr missed
  have hl := lookupSlot_eq_none_iff.mpr missed
  refine ⟨?_, ?_, ?_⟩
  · rw [exec_data_responder hr, responderData_missed hl]
    rfl
  · rw [exec_ack_responder hr, responderData_missed hl]
    rfl
  · rw [exec_fin_responder hr, responderFin_missed hl]
    rfl

/-- Settles O13 (R235). -/
theorem synWithFullTableIsDropped : Obligations.SynWithFullTableIsDropped := by
  intro s seq ack id b hr full
  have noCandidate : findCandidate s = none :=
    findCandidate_eq_none_iff.mpr fun x hx => (slotCandidate_eq_false_iff _ _ x).mpr (full x hx)
  rw [exec_syn_responder hr, responderSyn_full noCandidate]
  rfl

/-- Settles O14 (R232, R233). -/
theorem synScanTakesLowestCandidate : Obligations.SynScanTakesLowestCandidate := by
  intro s n
  simp only [findCandidate_eq_some_iff, slotCandidate_iff, slotCandidate_eq_false_iff]

/-- Settles O19 (R248). -/
theorem responderDropsSynackAndFinack : Obligations.ResponderDropsSynackAndFinack :=
  fun _ _ _ _ _ hr => ⟨exec_synack_responder hr, exec_finack_responder hr⟩

/-! ### One slot written and some operations issued -/

/-- The state with slot `i` holding `x` and the operations `ops` issued. -/
def slotLeft (i : Nat) (x : Slot) (ops : List PortOp) (s : State) : State :=
  (s.setSlot i x).setIo { s.io with trace := s.io.trace ++ ops }

/-- The `SinkClose` that `close_sink` issues for a slot (R246). -/
def closeOps (x : Slot) : List PortOp := if x.sinkOpen then [.sinkClose x.connId] else []

/-- The operations that deliver in-order payload (R239). -/
def deliveryOps (x : Slot) (seq : Word32) (b : List Byte) : List PortOp :=
  if seq = x.ack ∧ b ≠ [] then [.sinkWrite x.connId b, .sinkFlush x.connId] else []

/-- The `SinkClose` for the old sink of a slot that is reclaimed (R234). -/
def reclaimOps (x : Slot) : List PortOp := if x.inUse ∧ x.sinkOpen then [.sinkClose x.connId] else []

/-- What a reply leaves of `TXP` and of the answers still to come, whatever it was answered (R22, R285). -/
def replied (k : Packet) (s : State) : State :=
  (s.setTxp (packetRegOf s.params k s.rxp.peer)).setIo { s.io with txResults := s.io.txResults.tail }

/-- The record of a slot that has been served DATA or an ACK (R239 to R241, R249). -/
def dataSlot (seq ack : Word32) (b : List Byte) (s : State) (x : Slot) : Slot :=
  { x with
    ack := if seq = x.ack then addSeq s.params x.ack b.length else x.ack
    seq := if ack ≠ x.seq ∧ ack = addSeq s.params x.seq 1 then addSeq s.params x.seq 1 else x.seq
    lastActivity := s.now }

/-- The record of a slot that has been served a FIN, before it is marked (R243, R249). -/
def finSlot (seq : Word32) (s : State) (x : Slot) : Slot :=
  { x with ack := if seq = x.ack then addSeq s.params x.ack 1 else x.ack, lastActivity := s.now }

section
variable {i : Nat} {x : Slot} {ops : List PortOp} {s : State}

@[simp] theorem slotLeft_params : (slotLeft i x ops s).params = s.params := rfl
@[simp] theorem slotLeft_rxp : (slotLeft i x ops s).rxp = s.rxp := rfl
@[simp] theorem slotLeft_slots : (slotLeft i x ops s).slots = s.slots.set i x := rfl

/-- The slot reads as it was left. -/
theorem slotLeft_slot (hi : i < s.slots.length) : (slotLeft i x ops s).slot i = x :=
  State.setSlot_slot_same s i x hi

/-- A further write of the same slot stands alone. -/
theorem setSlot_slotLeft (y : Slot) : (slotLeft i x ops s).setSlot i y = slotLeft i y ops s := by
  rw [slotLeft, slotLeft, ← State.setSlot_setSlot s i x y]
  rfl

/-- A further operation comes last (R82). -/
theorem emit_slotLeft (o : PortOp) : emit o (slotLeft i x ops s) = slotLeft i x (ops ++ [o]) s := by
  rw [slotLeft, slotLeft, ← List.append_assoc]
  rfl

/-- A write of one slot and no operation. -/
theorem setSlot_eq_slotLeft : s.setSlot i x = slotLeft i x [] s := by
  rw [slotLeft, List.append_nil]
  rfl

/-- The operations of `close_sink` issued (R246). -/
theorem close_slotLeft :
    (if x.sinkOpen then emit (.sinkClose x.connId) (slotLeft i x ops s) else slotLeft i x ops s) =
      slotLeft i x (ops ++ closeOps x) s := by
  unfold closeOps
  split
  · exact emit_slotLeft _
  · rw [List.append_nil]

/-- The activity stamp (R249). -/
theorem stampSlot_eq_slotLeft : stampSlot i s = slotLeft i { s.slot i with lastActivity := s.now } [] s :=
  setSlot_eq_slotLeft

/-- `close_sink` of the slot (R246). -/
theorem closeSink_slotLeft (hi : i < s.slots.length) :
    closeSink i (slotLeft i x ops s) = slotLeft i { x with sinkOpen := false } (ops ++ closeOps x) s := by
  rw [closeSink_eq, slotLeft_slot hi, close_slotLeft, setSlot_slotLeft]

/-- `abort_slot` of the slot (R247). -/
theorem abortSlot_slotLeft (hi : i < s.slots.length) :
    abortSlot i (slotLeft i x ops s) = slotLeft i Slot.free (ops ++ closeOps x) (raiseSticky .slotAbort s) := by
  rw [abortSlot_eq, slotLeft_slot hi, close_slotLeft, setSlot_slotLeft]
  rfl

/-- Delivery to the slot (R239, R240). -/
theorem deliver_slotLeft (hi : i < s.slots.length) (seq : Word32) (b : List Byte) :
    deliver i seq b (slotLeft i x ops s) =
      slotLeft i { x with ack := if seq = x.ack then addSeq s.params x.ack b.length else x.ack }
        (ops ++ deliveryOps x seq b) s := by
  rw [deliver_eq, slotLeft_slot hi, deliveryOps]
  split
  · rw [emit_slotLeft, emit_slotLeft, setSlot_slotLeft, List.append_assoc]
    rfl
  · rw [setSlot_slotLeft, List.append_nil]
    rfl

/-- Reconciliation of the slot (R241). -/
theorem reconcile_slotLeft (hi : i < s.slots.length) (ack : Word32) :
    reconcile i ack (slotLeft i x ops s) =
      slotLeft i
        { x with
          seq := if ack ≠ x.seq ∧ ack = addSeq s.params x.seq 1 then addSeq s.params x.seq 1 else x.seq } ops s := by
  rw [reconcile_eq, slotLeft_slot hi, setSlot_slotLeft]
  rfl

/-- The advance of a FIN in the slot (R243). -/
theorem advanceFin_slotLeft (hi : i < s.slots.length) (seq : Word32) :
    advanceFin i seq (slotLeft i x ops s) =
      slotLeft i { x with ack := if seq = x.ack then addSeq s.params x.ack 1 else x.ack } ops s := by
  rw [advanceFin_eq, slotLeft_slot hi, setSlot_slotLeft]
  rfl

/-- The mark of a FIN on the slot (R245). -/
theorem markFin_slotLeft (hi : i < s.slots.length) :
    markFin i (slotLeft i x ops s) =
      slotLeft i { x with finObserved := true, sinkOpen := false } (ops ++ closeOps x) s := by
  rw [markFin, slotLeft_slot hi, setSlot_slotLeft, closeSink_slotLeft hi]
  rfl

/-- A reply from the slot whose `Tx` succeeds (R253). -/
theorem replyTx_slotLeft_ok {k : Packet} (hk : k.payload = []) (ho : txOutcome s = .ok) :
    replyTx i k (slotLeft i x ops s) =
      (.ok, slotLeft i x (ops ++ [.tx (packetBytes k) s.rxp.peer]) (replied k s)) := by
  rw [replyTx_ok (s := slotLeft i x ops s) hk ho, slotLeft, slotLeft, ← List.append_assoc]
  rfl

/-- A reply from the slot whose `Tx` fails (R247). -/
theorem replyTx_slotLeft_fail {k : Packet} (hi : i < s.slots.length) (hk : k.payload = [])
    (ho : txOutcome s = .fail) :
    replyTx i k (slotLeft i x ops s) =
      (.fail,
        slotLeft i Slot.free (ops ++ [.tx (packetBytes k) s.rxp.peer] ++ closeOps x)
          (raiseSticky .slotAbort (replied k s))) := by
  have sent :
      handToTx (packetBytes k) s.rxp.peer ((slotLeft i x ops s).setTxp (packetRegOf s.params k s.rxp.peer)) =
        slotLeft i x (ops ++ [.tx (packetBytes k) s.rxp.peer]) (replied k s) := by
    rw [slotLeft, slotLeft, ← List.append_assoc]
    rfl
  rw [replyTx_fail (s := slotLeft i x ops s) hk ho, slotLeft_rxp, slotLeft_params, sent,
    abortSlot_slotLeft (s := replied k s) hi]

end

/-! ### Packets that find their slot -/

section
variable {s : State} {seq ack : Word32} {id : Word16} {b : List Byte} {n : Nat}

/-- DATA or ACK of a slot that has observed a FIN (R238, R249). -/
theorem responderData_closing {pureAck : Bool} (hl : lookupSlot s id = some n) (hfin : (s.slot n).finObserved = true) :
    responderData pureAck seq ack id b s = closingSlot pureAck n (stampSlot n s) := by
  rw [responderData, hl]
  exact if_pos hfin

/-- DATA after the FIN leaves the slot in use (R238). -/
theorem closingSlot_data (hi : n < s.slots.length) :
    closingSlot false n (stampSlot n s) =
      slotLeft n { s.slot n with sinkOpen := false, lastActivity := s.now } (closeOps (s.slot n)) s := by
  rw [closingSlot, if_neg Bool.false_ne_true, stampSlot_eq_slotLeft, closeSink_slotLeft hi]
  rfl

/-- The ACK that completes a teardown frees the slot (R238). -/
theorem closingSlot_ack (hi : n < s.slots.length) :
    closingSlot true n (stampSlot n s) = slotLeft n Slot.free (closeOps (s.slot n)) s := by
  rw [closingSlot, if_pos rfl, stampSlot_eq_slotLeft, closeSink_slotLeft hi, freeSlot, setSlot_slotLeft]
  rfl

/-- DATA or ACK of an open stream, up to the answer of its reply (R239 to R242, R249). -/
theorem responderData_open {pureAck : Bool} (hl : lookupSlot s id = some n) (hopen : (s.slot n).finObserved = false) :
    responderData pureAck seq ack id b s =
      (replyTx n (slotPacket (dataSlot seq ack b s (s.slot n)) (flagsAck s.params))
        (slotLeft n (dataSlot seq ack b s (s.slot n)) (deliveryOps (s.slot n) seq b) s)).2 := by
  obtain ⟨hi, -, -⟩ := lookupSlot_some hl
  rw [responderData, hl]
  simp only [hopen, Bool.false_eq_true, if_false]
  rw [openSlotPacket, stampSlot_eq_slotLeft, deliver_slotLeft hi, reconcile_slotLeft hi, acknowledge, slotLeft_slot hi]
  rfl

/-- A FIN, up to its two replies (R243, R249). -/
theorem responderFin_found (hl : lookupSlot s id = some n) :
    responderFin seq id s = answerFin n (slotLeft n (finSlot seq s (s.slot n)) [] s) := by
  obtain ⟨hi, -, -⟩ := lookupSlot_some hl
  rw [responderFin, hl]
  simp only
  rw [stampSlot_eq_slotLeft, advanceFin_slotLeft hi]
  rfl

/-- A SYN that finds a candidate, up to the answer of its reply (R234). -/
theorem responderSyn_found (hf : findCandidate s = some n) :
    responderSyn seq s =
      (replyTx n (slotPacket (newSlot n seq s) (flagsSynAck s.params))
        (slotLeft n (newSlot n seq s) (reclaimOps (s.slot n) ++ [.sinkOpen (BitVec.ofNat 16 (n + 1))])
          (takeDraw s))).2 := by
  obtain ⟨hi, -, -⟩ := findCandidate_some hf
  have opened :
      openSlot n seq (reclaimSlot n s) =
        slotLeft n (newSlot n seq s) (reclaimOps (s.slot n) ++ [.sinkOpen (BitVec.ofNat 16 (n + 1))])
          (takeDraw s) := by
    rw [openSlot_reclaimSlot_eq, ← emit_slotLeft, reclaimOps]
    congr 1
    split
    · rfl
    · rw [← setSlot_eq_slotLeft]
  rw [responderSyn, hf]
  simp only
  rw [allocateSlot, opened, slotLeft_slot (s := takeDraw s) hi]
  rfl

/-- A reply to DATA or an ACK that succeeds (R242). -/
theorem responderData_ok {pureAck : Bool} (hl : lookupSlot s id = some n) (hopen : (s.slot n).finObserved = false)
    (ho : txOutcome s = .ok) :
    let x := dataSlot seq ack b s (s.slot n)
    let k := slotPacket x (flagsAck s.params)
    responderData pureAck seq ack id b s =
      slotLeft n x (deliveryOps (s.slot n) seq b ++ [.tx (packetBytes k) s.rxp.peer]) (replied k s) := by
  intro x k
  rw [responderData_open hl hopen, replyTx_slotLeft_ok rfl ho]

/-- A reply to DATA or an ACK that fails (R247). -/
theorem responderData_fail {pureAck : Bool} (hl : lookupSlot s id = some n) (hopen : (s.slot n).finObserved = false)
    (ho : txOutcome s = .fail) :
    let k := slotPacket (dataSlot seq ack b s (s.slot n)) (flagsAck s.params)
    responderData pureAck seq ack id b s =
      slotLeft n Slot.free
        (deliveryOps (s.slot n) seq b ++ [.tx (packetBytes k) s.rxp.peer] ++ closeOps (s.slot n))
        (raiseSticky .slotAbort (replied k s)) := by
  intro k
  obtain ⟨hi, -, -⟩ := lookupSlot_some hl
  rw [responderData_open hl hopen, replyTx_slotLeft_fail hi rfl ho]
  rfl

/-- A SYNACK whose `Tx` succeeds (R234). -/
theorem responderSyn_ok (hf : findCandidate s = some n) (ho : txOutcome s = .ok) :
    let k := slotPacket (newSlot n seq s) (flagsSynAck s.params)
    responderSyn seq s =
      slotLeft n (newSlot n seq s)
        (reclaimOps (s.slot n) ++ [.sinkOpen (BitVec.ofNat 16 (n + 1)), .tx (packetBytes k) s.rxp.peer])
        (replied k (takeDraw s)) := by
  intro k
  rw [responderSyn_found hf, replyTx_slotLeft_ok (s := takeDraw s) rfl ho, List.append_assoc]
  rfl

/-- A SYNACK whose `Tx` fails (R247). -/
theorem responderSyn_fail (hf : findCandidate s = some n) (ho : txOutcome s = .fail) :
    let k := slotPacket (newSlot n seq s) (flagsSynAck s.params)
    let sid := BitVec.ofNat 16 (n + 1)
    responderSyn seq s =
      slotLeft n Slot.free
        (reclaimOps (s.slot n) ++ [.sinkOpen sid, .tx (packetBytes k) s.rxp.peer, .sinkClose sid])
        (raiseSticky .slotAbort (replied k (takeDraw s))) := by
  intro k sid
  obtain ⟨hi, -, -⟩ := findCandidate_some hf
  rw [responderSyn_found hf, replyTx_slotLeft_fail (s := takeDraw s) hi rfl ho, List.append_assoc, List.append_assoc]
  rfl

/-- A FIN whose first reply fails: the second is not attempted (R244, R247). -/
theorem responderFin_first_fails (hl : lookupSlot s id = some n) (ho : txOutcome s = .fail) :
    let k := slotPacket (finSlot seq s (s.slot n)) (flagsAck s.params)
    responderFin seq id s =
      slotLeft n Slot.free ([.tx (packetBytes k) s.rxp.peer] ++ closeOps (s.slot n))
        (raiseSticky .slotAbort (replied k s)) := by
  intro k
  obtain ⟨hi, -, -⟩ := lookupSlot_some hl
  rw [responderFin_found hl, answerFin, slotLeft_slot hi, slotLeft_params, replyTx_slotLeft_fail hi rfl ho]
  rfl

/-- What answers a FIN after a first reply that succeeds, by the answer `r` of the second (R244, R245). -/
theorem answerFin_of_first_ok {i : Nat} {u t v : State} {r : TxResult}
    (first : replyTx i (slotPacket (u.slot i) (flagsAck u.params)) u = (.ok, t))
    (second : replyTx i (slotPacket (t.slot i) t.params.rspFinFlags) t = (r, v)) :
    answerFin i u = if r = .ok then markFin i v else v := by
  simp only [answerFin, first, second]
  cases r <;> rfl

/-- A FIN whose first reply succeeds, by the answer `r` of the second. -/
theorem responderFin_first_ok (hl : lookupSlot s id = some n) (ho : txOutcome s = .ok) {r : TxResult} {t : State} :
    let x := finSlot seq s (s.slot n)
    let k := slotPacket x (flagsAck s.params)
    replyTx n (slotPacket x s.params.rspFinFlags) (slotLeft n x [.tx (packetBytes k) s.rxp.peer] (replied k s)) =
      (r, t) →
    responderFin seq id s = if r = .ok then markFin n t else t := by
  intro x k second
  obtain ⟨hi, -, -⟩ := lookupSlot_some hl
  rw [responderFin_found hl]
  apply answerFin_of_first_ok (t := slotLeft n x [.tx (packetBytes k) s.rxp.peer] (replied k s))
  · rw [slotLeft_slot hi]
    exact replyTx_slotLeft_ok rfl ho
  · rw [slotLeft_slot (s := replied k s) hi]
    exact second

/-- A FIN whose second reply fails (R247). -/
theorem responderFin_second_fails (hl : lookupSlot s id = some n) (ho : txOutcome s = .ok)
    (ho' : s.io.txResults.tail.head = .fail) :
    let k := slotPacket (finSlot seq s (s.slot n)) (flagsAck s.params)
    let f := slotPacket (finSlot seq s (s.slot n)) s.params.rspFinFlags
    responderFin seq id s =
      slotLeft n Slot.free
        ([.tx (packetBytes k) s.rxp.peer, .tx (packetBytes f) s.rxp.peer] ++ closeOps (s.slot n))
        (raiseSticky .slotAbort (replied f (replied k s))) := by
  intro k f
  obtain ⟨hi, -, -⟩ := lookupSlot_some hl
  rw [responderFin_first_ok hl ho (replyTx_slotLeft_fail (s := replied k s) hi rfl ho')]
  rfl

/-- A FIN whose replies both succeed (R245). -/
theorem responderFin_both_ok (hl : lookupSlot s id = some n) (ho : txOutcome s = .ok)
    (ho' : s.io.txResults.tail.head = .ok) :
    let x := finSlot seq s (s.slot n)
    let k := slotPacket x (flagsAck s.params)
    let f := slotPacket x s.params.rspFinFlags
    responderFin seq id s =
      slotLeft n { x with finObserved := true, sinkOpen := false }
        ([.tx (packetBytes k) s.rxp.peer, .tx (packetBytes f) s.rxp.peer] ++ closeOps (s.slot n))
        (replied f (replied k s)) := by
  intro x k f
  obtain ⟨hi, -, -⟩ := lookupSlot_some hl
  rw [responderFin_first_ok hl ho (replyTx_slotLeft_ok (s := replied k s) rfl ho'), if_pos rfl,
    markFin_slotLeft (s := replied f (replied k s)) hi]
  rfl

end

/-! ### The next state of each packet -/

/-- Settles O8 (R239 to R242, R249, R253). -/
theorem dataAndAckAtOpenSlot : Obligations.DataAndAckAtOpenSlot := by
  intro s seq ack id b n hr hl hopen ho
  refine ⟨?_, ?_⟩
  · rw [exec_data_responder hr, responderData_ok hl hopen ho]
    rfl
  · rw [exec_ack_responder hr, responderData_ok hl hopen ho]
    rfl

/-- Settles O10 (R238). -/
theorem dataAndAckAtClosingSlot : Obligations.DataAndAckAtClosingSlot := by
  intro s seq ack id b n hr hl hfin
  obtain ⟨hi, -, -⟩ := lookupSlot_some hl
  refine ⟨?_, ?_⟩
  · rw [exec_data_responder hr, responderData_closing hl hfin, closingSlot_data hi]
    rfl
  · rw [exec_ack_responder hr, responderData_closing hl hfin, closingSlot_ack hi]
    rfl

/-- Settles O12 (R234, R251). -/
theorem synAllocatesSlotAndReplies : Obligations.SynAllocatesSlotAndReplies := by
  intro s seq ack id b n hr hf ho
  rw [exec_syn_responder hr, responderSyn_ok hf ho]
  rfl

/-- Settles O16 (R243 to R245). -/
theorem finAnsweredTwiceAndMarked : Obligations.FinAnsweredTwiceAndMarked := by
  intro s seq ack id b n hr hl ho ho'
  rw [exec_fin_responder hr, responderFin_both_ok hl ho ho']
  rfl

/-- Settles O17 (R242, R247). -/
theorem failedAckReplyAbortsSlot : Obligations.FailedAckReplyAbortsSlot := by
  intro s seq ack id b n hr hl hopen ho
  refine ⟨?_, ?_⟩
  · rw [exec_data_responder hr, responderData_fail hl hopen ho]
    rfl
  · rw [exec_ack_responder hr, responderData_fail hl hopen ho]
    rfl

/-- Settles O18 (R234, R244, R247). -/
theorem failedSynackOrFinReplyAbortsSlot : Obligations.FailedSynackOrFinReplyAbortsSlot := by
  intro s seq ack id b n hr
  refine ⟨fun hf ho => ?_, fun hl => ⟨fun ho => ?_, fun ho ho' => ?_⟩⟩
  · rw [exec_syn_responder hr, responderSyn_fail hf ho]
    rfl
  · rw [exec_fin_responder hr, responderFin_first_fails hl ho]
    rfl
  · rw [exec_fin_responder hr, responderFin_second_fails hl ho ho']
    rfl

end Sys2Proof.Machine
end

section
/-! What every packet's event at the responder stays within, whatever its transmissions answer: what its sinks receive
(R239, R240, R289) and the bounds of R252. -/

namespace Sys2Proof.Machine

/-! ### What a sink receives -/

/-- Operations that open and write no sink leave the content of every sink. -/
theorem sinkContent_of_no_write {j : Word16} {acc : List Byte} {ops : List PortOp}
    (h : ∀ o ∈ ops, o.isSinkOpen = false ∧ o.isSinkWrite = false) : sinkContent j acc ops = acc := by
  induction ops with
  | nil => rfl
  | cons o rest ih =>
    obtain ⟨⟨noOpen, noWrite⟩, later⟩ := List.forall_mem_cons.mp h
    cases o with
    | sinkOpen => cases noOpen
    | sinkWrite => cases noWrite
    | tx | sinkFlush | sinkClose | srcRead => exact ih later

/-- In-order payload is appended to the sink of the slot, and nothing else to any (R239, R240). -/
theorem sinkContent_deliveryOps (j : Word16) (acc : List Byte) (x : Slot) (seq : Word32) (b : List Byte) :
    sinkContent j acc (deliveryOps x seq b) = acc ++ if x.connId = j ∧ seq = x.ack then b else [] := by
  unfold deliveryOps
  by_cases inOrder : seq = x.ack
  · by_cases empty : b = []
    · simp [empty, sinkContent]
    · by_cases own : x.connId = j <;> simp [inOrder, empty, own, sinkContent]
  · simp [inOrder, sinkContent]

section
variable {s : State} {seq ack : Word32} {id : Word16} {b : List Byte} {n : Nat} {pureAck : Bool}

/-- After the delivery a DATA or ACK of an open stream only sends and closes (R239 to R242, R247). -/
theorem responderData_open_trace (hl : lookupSlot s id = some n) (hopen : (s.slot n).finObserved = false) :
    ∃ later, (responderData pureAck seq ack id b s).io.trace = s.io.trace ++ (deliveryOps (s.slot n) seq b ++ later) ∧
      ∀ o ∈ later, o.isSinkOpen = false ∧ o.isSinkWrite = false := by
  cases ho : txOutcome s with
  | ok =>
    rw [responderData_ok hl hopen ho]
    exact ⟨_, rfl, by simp [PortOp.isSinkOpen, PortOp.isSinkWrite]⟩
  | fail =>
    rw [responderData_fail hl hopen ho, List.append_assoc]
    refine ⟨_, rfl, ?_⟩
    unfold closeOps
    split <;> simp [PortOp.isSinkOpen, PortOp.isSinkWrite]

/-- What the sinks hold after a DATA or ACK of an open stream (R239, R240). -/
theorem sinkContent_responderData (hl : lookupSlot s id = some n) (hopen : (s.slot n).finObserved = false)
    (j : Word16) :
    sinkContent j [] (responderData pureAck seq ack id b s).io.trace =
      sinkContent j [] s.io.trace ++ if id = j ∧ seq = (s.slot n).ack then b else [] := by
  obtain ⟨-, -, rfl⟩ := lookupSlot_some hl
  obtain ⟨later, trace, silent⟩ := responderData_open_trace (pureAck := pureAck) (seq := seq) (ack := ack) (b := b)
    hl hopen
  rw [trace, sinkContent_append, sinkContent_append, sinkContent_of_no_write silent, sinkContent_deliveryOps]

/-- The sink of the packet's id (R239, R240). -/
theorem sinkContent_own (hl : lookupSlot s id = some n) (hopen : (s.slot n).finObserved = false) :
    sinkContent id [] (responderData pureAck seq ack id b s).io.trace =
      sinkContent id [] s.io.trace ++ if seq = (s.slot n).ack then b else [] := by
  simpa using sinkContent_responderData hl hopen id

/-- The sink of any other id (R289). -/
theorem sinkContent_other (hl : lookupSlot s id = some n) (hopen : (s.slot n).finObserved = false) {j : Word16}
    (hj : j ≠ id) :
    sinkContent j [] (responderData pureAck seq ack id b s).io.trace = sinkContent j [] s.io.trace := by
  simpa [Ne.symm hj] using sinkContent_responderData hl hopen j

end

/-- Settles O9 (R239, R240, R289). -/
theorem sinkReceivesInOrderPayloadOnly : Obligations.SinkReceivesInOrderPayloadOnly := by
  intro s t t' seq ack id b n hr hl hopen ht ht'
  rw [exec_data_responder hr] at ht
  rw [exec_ack_responder hr] at ht'
  cases ht
  cases ht'
  exact ⟨sinkContent_own hl hopen, sinkContent_own hl hopen,
    fun j hj => ⟨sinkContent_other hl hopen hj, sinkContent_other hl hopen hj⟩⟩

/-! ### The operations of one event -/

/-- The bounds of R252 on the operations that the event of `i` issues, its first `Tx` answering `r`. The two orders are
of operations anywhere before and after one another. -/
structure OpsBounded (i : Instr) (r : TxResult) (ops : List PortOp) : Prop where
  sent : ops.countP PortOp.isTx ≤ replyBound i
  opened : ops.countP PortOp.isSinkOpen ≤ 1
  written : ops.countP PortOp.isSinkWrite ≤ 1
  flushed : ops.countP PortOp.isSinkFlush ≤ 1
  closed : ops.countP PortOp.isSinkClose ≤ 2
  closedOnce : instrIsSyn i = false ∨ r = .ok → ops.countP PortOp.isSinkClose ≤ 1
  deliveredFirst : ops.Pairwise fun o o' => o.isTx = true → o'.isSinkWrite = false ∧ o'.isSinkFlush = false
  closedFirst : r = .ok → ops.Pairwise fun o o' => o.isSinkOpen = true → o'.isSinkClose = false

/-- Fewer operations in the same order stay within the bounds. -/
theorem OpsBounded.sublist {i : Instr} {r : TxResult} {ops ops' : List PortOp} (h : OpsBounded i r ops)
    (sub : ops'.Sublist ops) : OpsBounded i r ops' where
  sent := (sub.countP_le).trans h.sent
  opened := (sub.countP_le).trans h.opened
  written := (sub.countP_le).trans h.written
  flushed := (sub.countP_le).trans h.flushed
  closed := (sub.countP_le).trans h.closed
  closedOnce := fun c => (sub.countP_le).trans (h.closedOnce c)
  deliveredFirst := h.deliveredFirst.sublist sub
  closedFirst := fun c => (h.closedFirst c).sublist sub

/-- What holds between any two operations in order holds between one and those after it. -/
theorem forall_after_of_pairwise {R : PortOp → PortOp → Prop} {a b : List PortOp} {o : PortOp}
    (h : (a ++ o :: b).Pairwise R) : ∀ o' ∈ b, R o o' :=
  (List.pairwise_cons.mp (List.pairwise_append.mp h).2.1).1

/-- No delivery after a `Tx` (R252). -/
theorem OpsBounded.no_delivery_after_tx {i : Instr} {r : TxResult} {a b : List PortOp} {d : List Byte} {dest : Nat}
    (h : OpsBounded i r (a ++ .tx d dest :: b)) :
    b.countP PortOp.isSinkWrite = 0 ∧ b.countP PortOp.isSinkFlush = 0 := by
  have after := forall_after_of_pairwise h.deliveredFirst
  refine ⟨List.countP_eq_zero.mpr fun o ho => ?_, List.countP_eq_zero.mpr fun o ho => ?_⟩
  · rw [(after o ho rfl).1]
    exact Bool.false_ne_true
  · rw [(after o ho rfl).2]
    exact Bool.false_ne_true

/-- No `SinkClose` after a `SinkOpen` when the reply succeeds (R252). -/
theorem OpsBounded.no_close_after_open {i : Instr} {a b : List PortOp} {id : Word16}
    (h : OpsBounded i .ok (a ++ .sinkOpen id :: b)) : b.countP PortOp.isSinkClose = 0 := by
  refine List.countP_eq_zero.mpr fun o ho => ?_
  rw [forall_after_of_pairwise (h.closedFirst rfl) o ho rfl]
  exact Bool.false_ne_true

/-- An event that issues nothing. -/
theorem OpsBounded.nil (i : Instr) (r : TxResult) : OpsBounded i r [] where
  sent := Nat.zero_le _
  opened := Nat.zero_le _
  written := Nat.zero_le _
  flushed := Nat.zero_le _
  closed := Nat.zero_le _
  closedOnce := fun _ => Nat.zero_le _
  deliveredFirst := .nil
  closedFirst := fun _ => .nil

section
variable {i : Instr} {r : TxResult} {id id' : Word16} {b d d' : List Byte} {dest dest' : Nat}

/-- Everything that a DATA or an ACK may issue (R238 to R242, R247). -/
theorem opsBounded_data (hi : replyBound i = 1) :
    OpsBounded i r [.sinkWrite id b, .sinkFlush id, .tx d dest, .sinkClose id] where
  sent := hi.ge
  opened := Nat.zero_le 1
  written := Nat.le_refl 1
  flushed := Nat.le_refl 1
  closed := Nat.le_succ 1
  closedOnce := fun _ => Nat.le_refl 1
  deliveredFirst := by simp [PortOp.isTx, PortOp.isSinkWrite, PortOp.isSinkFlush]
  closedFirst := by simp [PortOp.isSinkOpen]

/-- Everything that a FIN may issue (R244, R245, R247). -/
theorem opsBounded_fin (hi : replyBound i = 2) :
    OpsBounded i r [.tx d dest, .tx d' dest', .sinkClose id] where
  sent := hi.ge
  opened := Nat.zero_le 1
  written := Nat.zero_le 1
  flushed := Nat.zero_le 1
  closed := Nat.le_succ 1
  closedOnce := fun _ => Nat.le_refl 1
  deliveredFirst := by simp [PortOp.isSinkWrite, PortOp.isSinkFlush]
  closedFirst := by simp [PortOp.isSinkOpen]

/-- Everything that a SYN may issue whose SYNACK is sent (R234). -/
theorem opsBounded_syn_ok (hi : replyBound i = 1) : OpsBounded i .ok [.sinkClose id, .sinkOpen id', .tx d dest] where
  sent := hi.ge
  opened := Nat.le_refl 1
  written := Nat.zero_le 1
  flushed := Nat.zero_le 1
  closed := Nat.le_succ 1
  closedOnce := fun _ => Nat.le_refl 1
  deliveredFirst := by simp [PortOp.isSinkWrite, PortOp.isSinkFlush]
  closedFirst := by simp [PortOp.isSinkOpen, PortOp.isSinkClose]

/-- Everything that a SYN may issue whose SYNACK fails (R234, R247). -/
theorem opsBounded_syn_fail (hi : replyBound i = 1) (syn : instrIsSyn i = true) :
    OpsBounded i .fail [.sinkClose id, .sinkOpen id', .tx d dest, .sinkClose id'] where
  sent := hi.ge
  opened := Nat.le_refl 1
  written := Nat.zero_le 1
  flushed := Nat.zero_le 1
  closed := Nat.le_refl 2
  closedOnce := by simp [syn]
  deliveredFirst := by simp [PortOp.isSinkWrite, PortOp.isSinkFlush]
  closedFirst := nofun

end

/-- `close_sink` issues one `SinkClose` or nothing (R246). -/
theorem closeOps_sublist (x : Slot) : (closeOps x).Sublist [.sinkClose x.connId] := by
  unfold closeOps
  split
  · exact .refl _
  · exact List.nil_sublist _

/-- Reclaiming issues one `SinkClose` or nothing (R234). -/
theorem reclaimOps_sublist (x : Slot) : (reclaimOps x).Sublist [.sinkClose x.connId] := by
  unfold reclaimOps
  split
  · exact .refl _
  · exact List.nil_sublist _

/-- Delivery issues a write and a flush or nothing (R239). -/
theorem deliveryOps_sublist (x : Slot) (seq : Word32) (b : List Byte) :
    (deliveryOps x seq b).Sublist [.sinkWrite x.connId b, .sinkFlush x.connId] := by
  unfold deliveryOps
  split
  · exact .refl _
  · exact List.nil_sublist _

/-! ### The bounds of R252 -/

/-- The event of `i` at the responder, from `s` to `t`, stays within R252. -/
structure EventBounded (i : Instr) (s t : State) : Prop where
  length : t.slots.length = s.slots.length
  others : ∀ j, servedSlot i s ≠ some j → t.slot j = s.slot j
  draws : t.io.draws = s.io.draws ∨ (instrIsSyn i = true ∧ t.io.draws = s.io.draws.tail)
  ops : ∃ ops, t.io.trace = s.io.trace ++ ops ∧ OpsBounded i (txOutcome s) ops

section
variable {i : Instr} {s : State} {seq ack : Word32} {id : Word16} {b : List Byte}

/-- A packet that is dropped (R319). -/
theorem drop_eventBounded (bit : StickyBit) : EventBounded i s (drop bit s) where
  length := rfl
  others := fun _ _ => rfl
  draws := .inl rfl
  ops := ⟨[], (List.append_nil _).symm, .nil _ _⟩

/-- A packet that leaves its slot written and issues operations within the bounds; `u` is the rest of the state. -/
theorem slotLeft_eventBounded {n : Nat} {x : Slot} {ops : List PortOp} {u : State} (found : servedSlot i s = some n)
    (slots : u.slots = s.slots) (trace : u.io.trace = s.io.trace)
    (draws : u.io.draws = s.io.draws ∨ (instrIsSyn i = true ∧ u.io.draws = s.io.draws.tail))
    (bounded : OpsBounded i (txOutcome s) ops) : EventBounded i s (slotLeft n x ops u) where
  length := by rw [slotLeft_slots, List.length_set, slots]
  others := fun j other => by
    have ne : j ≠ n := fun e => other (e ▸ found)
    exact (State.setSlot_slot_other u n j x ne).trans (by rw [State.slot, State.slot, slots])
  draws := draws
  ops := ⟨ops, congrArg (· ++ ops) trace, bounded⟩

/-- DATA and ACK (R236 to R242). -/
theorem responderData_eventBounded (pureAck : Bool) (hs : servedSlot i s = lookupSlot s id)
    (hi : replyBound i = 1) : EventBounded i s (responderData pureAck seq ack id b s) := by
  cases hl : lookupSlot s id with
  | none =>
    rw [responderData_missed hl]
    exact drop_eventBounded _
  | some n =>
    obtain ⟨hn, -, -⟩ := lookupSlot_some hl
    have found := hs.trans hl
    have delivery := deliveryOps_sublist (s.slot n) seq b
    have close := closeOps_sublist (s.slot n)
    cases hfin : (s.slot n).finObserved with
    | true =>
      have bounded : OpsBounded i (txOutcome s) (closeOps (s.slot n)) :=
        (opsBounded_data (b := b) (d := []) (dest := 0) hi).sublist
          (close.trans (List.sublist_append_right [_, _, _] _))
      rw [responderData_closing hl hfin]
      cases pureAck with
      | false =>
        rw [closingSlot_data hn]
        exact slotLeft_eventBounded found rfl rfl (.inl rfl) bounded
      | true =>
        rw [closingSlot_ack hn]
        exact slotLeft_eventBounded found rfl rfl (.inl rfl) bounded
    | false =>
      cases ho : txOutcome s with
      | ok =>
        rw [responderData_ok hl hfin ho]
        exact slotLeft_eventBounded found rfl rfl (.inl rfl)
          ((opsBounded_data hi).sublist (delivery.append (List.sublist_append_left [_] [_])))
      | fail =>
        rw [responderData_fail hl hfin ho]
        exact slotLeft_eventBounded found rfl rfl (.inl rfl)
          ((opsBounded_data hi).sublist ((delivery.append (.refl [_])).append close))

/-- A FIN (R243 to R245). -/
theorem responderFin_eventBounded (hs : servedSlot i s = lookupSlot s id) (hi : replyBound i = 2) :
    EventBounded i s (responderFin seq id s) := by
  cases hl : lookupSlot s id with
  | none =>
    rw [responderFin_missed hl]
    exact drop_eventBounded _
  | some n =>
    have found := hs.trans hl
    have close := closeOps_sublist (s.slot n)
    cases ho : txOutcome s with
    | fail =>
      rw [responderFin_first_fails hl ho]
      exact slotLeft_eventBounded found rfl rfl (.inl rfl)
        ((opsBounded_fin (d' := []) (dest' := 0) hi).sublist
          ((List.Sublist.refl [_]).append (close.trans (List.sublist_cons_self _ _))))
    | ok =>
      cases ho' : s.io.txResults.tail.head with
      | fail =>
        rw [responderFin_second_fails hl ho ho']
        exact slotLeft_eventBounded found rfl rfl (.inl rfl)
          ((opsBounded_fin hi).sublist ((List.Sublist.refl [_, _]).append close))
      | ok =>
        rw [responderFin_both_ok hl ho ho']
        exact slotLeft_eventBounded found rfl rfl (.inl rfl)
          ((opsBounded_fin hi).sublist ((List.Sublist.refl [_, _]).append close))

/-- A SYN (R233 to R235). -/
theorem responderSyn_eventBounded (hs : servedSlot i s = findCandidate s) (hi : replyBound i = 1)
    (syn : instrIsSyn i = true) : EventBounded i s (responderSyn seq s) := by
  cases hf : findCandidate s with
  | none =>
    rw [responderSyn_full hf]
    exact drop_eventBounded _
  | some n =>
    have found := hs.trans hf
    have reclaim := reclaimOps_sublist (s.slot n)
    cases ho : txOutcome s with
    | ok =>
      rw [responderSyn_ok hf ho]
      refine slotLeft_eventBounded found rfl rfl (.inr ⟨syn, rfl⟩) ?_
      rw [ho]
      exact (opsBounded_syn_ok hi).sublist (reclaim.append (.refl [_, _]))
    | fail =>
      rw [responderSyn_fail hf ho]
      refine slotLeft_eventBounded found rfl rfl (.inr ⟨syn, rfl⟩) ?_
      rw [ho]
      exact (opsBounded_syn_fail hi syn).sublist (reclaim.append (.refl [_, _, _]))

/-- Every packet at the responder (R252). -/
theorem exec_eventBounded {t : State} (hr : s.role = .responder) (h : exec i s = .next t) : EventBounded i s t := by
  cases i with
  | data seq ack id b =>
    cases (exec_data_responder hr).symm.trans h
    exact responderData_eventBounded false rfl rfl
  | ack seq ack id b =>
    cases (exec_ack_responder hr).symm.trans h
    exact responderData_eventBounded true rfl rfl
  | fin seq ack id b =>
    cases (exec_fin_responder hr).symm.trans h
    exact responderFin_eventBounded rfl rfl
  | syn seq ack id b =>
    cases (exec_syn_responder hr).symm.trans h
    exact responderSyn_eventBounded rfl rfl rfl
  | finack seq ack id b =>
    cases (exec_finack_responder hr).symm.trans h
    exact drop_eventBounded _
  | synack seq ack id b =>
    cases (exec_synack_responder hr).symm.trans h
    exact drop_eventBounded _

end

/-- Settles O20 (R252). -/
theorem responderEventBounds : Obligations.ResponderEventBounds := by
  intro i s t hr h
  obtain ⟨length, others, draws, ops, trace, bounded⟩ := exec_eventBounded hr h
  refine ⟨length, others, draws, ops, trace, bounded.sent, bounded.opened, bounded.written, bounded.flushed,
    bounded.closed, bounded.closedOnce, ?_, ?_⟩
  · rintro a b d dest rfl
    exact bounded.no_delivery_after_tx
  · rintro a b id rfl ho
    rw [ho] at bounded
    exact bounded.no_close_after_open

end Sys2Proof.Machine
end

section
/-! The environment's turn as the sum of its actions (R54, R281, R293, R321; log 6): each action raises at most one
request, and none is merged with another or lost. -/

namespace Sys2Proof.Machine

/-- From the ports `io` to `io'` the requests of the actions `acts` are raised and no other: tick pulses and starts are
counted, datagrams queued in receipt order, and a reset and a receive failure stand once seen. The script is not the
actions' to write. -/
structure RequestsRaised (acts : List PortAct) (io io' : Ports) : Prop where
  script : io'.script = io.script
  ticks : io'.ticks = io.ticks + acts.count .tick
  rxErr : io'.rxErr = true ↔ io.rxErr = true ∨ .rxErr ∈ acts
  rx : io'.rx = io.rx ++ acts.filterMap PortAct.datagram
  start : io'.start = io.start + acts.countP PortAct.isStart
  resetReq : io'.resetReq = true ↔ io.resetReq = true ∨ .reset ∈ acts

section
variable {acts acts' : List PortAct} {io io' io'' : Ports}

/-- No action raises nothing. -/
theorem RequestsRaised.nil : RequestsRaised [] io io where
  script := rfl
  ticks := rfl
  rxErr := by simp
  rx := (List.append_nil _).symm
  start := rfl
  resetReq := by simp

/-- Actions in a row. -/
theorem RequestsRaised.append (h : RequestsRaised acts io io') (g : RequestsRaised acts' io' io'') :
    RequestsRaised (acts ++ acts') io io'' where
  script := g.script.trans h.script
  ticks := by rw [g.ticks, h.ticks, List.count_append, Nat.add_assoc]
  rxErr := by rw [g.rxErr, h.rxErr, List.mem_append, or_assoc]
  rx := by rw [g.rx, h.rx, List.filterMap_append, List.append_assoc]
  start := by rw [g.start, h.start, List.countP_append, Nat.add_assoc]
  resetReq := by rw [g.resetReq, h.resetReq, List.mem_append, or_assoc]

end

/-- Of the ports a host write reaches the count of starts alone, and this by a 1 to `CTRL.START` (R53, R54). -/
theorem hostWrite_io (number : Nat) (v : Word32) (s : State) :
    (hostWrite number v s).io =
      { s.io with start := s.io.start + if (PortAct.hostWrite number v).isStart then 1 else 0 } := by
  have idleOnly : ∀ c, (writeInIdle c s).io = s.io := fun c => by unfold writeInIdle; split <;> rfl
  unfold hostWrite PortAct.isStart
  by_cases control : number = 0
  · simp only [control, if_true, beq_self_eq_true, Bool.true_and]
    cases v.getLsbD 0 <;> rfl
  · simp only [control, if_false, Bool.and_eq_true, beq_iff_eq, false_and, Nat.add_zero]
    split
    · exact idleOnly _
    · split
      · exact idleOnly _
      · split
        · exact idleOnly _
        · rfl

/-- One action raises its request (R281, R283, R293, R350). -/
theorem applyAct_raises (s : State) (a : PortAct) : RequestsRaised [a] s.io (applyAct s a).io := by
  cases a with
  | strap | srcWrite | reset | rxErr | tick =>
    exact ⟨rfl, rfl, by simp [applyAct], (List.append_nil _).symm, rfl, by simp [applyAct]⟩
  | rx d => exact ⟨rfl, rfl, by simp [applyAct], rfl, rfl, by simp [applyAct]⟩
  | hostWrite number v =>
    rw [applyAct, hostWrite_io]
    exact ⟨rfl, rfl, by simp, (List.append_nil _).symm, by rw [List.countP_singleton], by simp⟩

/-- The actions of a turn raise their requests. -/
theorem applyActs_raises (acts : List PortAct) (s : State) : RequestsRaised acts s.io (applyActs acts s).io := by
  induction acts generalizing s with
  | nil => exact .nil
  | cons a rest ih => exact (applyAct_raises s a).append (ih _)

/-- Settles O39 (R54, R281, R293, R321). -/
theorem turnHoldsEveryRequest : Obligations.TurnHoldsEveryRequest := by
  intro s acts rest hscript t
  have turn : t = applyActs acts (s.setIo { s.io with script := rest }) := by
    simp only [t, takeTurn, hscript]
  have raised := applyActs_raises acts (s.setIo { s.io with script := rest })
  rw [← turn] at raised
  obtain ⟨script, ticks, rxErr, rx, start, resetReq⟩ := raised
  have f := takeTurn_frame s
  exact ⟨script, ticks, rxErr, rx, start, resetReq, f.straps, f.now, f.sticky, f.p, f.slots, f.rxp, f.txp, f.trace,
    f.draws, f.txResults, f.c, f.cKept⟩

end Sys2Proof.Machine
end

section
/-! The sinks (R246, R289 to R291). A packet's event at the responder uses the sink of the slot it serves and no other,
in the order the rules allow, and leaves the slot's open bit to say whether the sink is open; no other event uses a
sink. -/

namespace Sys2Proof.Machine

/-! ### One sink over some operations -/

/-- The id of the sink an operation is on, if it is on one (R289 to R291). -/
def PortOp.sinkId : PortOp → Option Word16
  | .tx _ _ => none
  | .srcRead _ _ => none
  | .sinkOpen id => some id
  | .sinkWrite id _ => some id
  | .sinkFlush id => some id
  | .sinkClose id => some id

/-- The operations use the sink of `id` in the order of R289 to R291, when it is open before them as `b` says, and leave
it open as `b'` says. -/
structure SinkRun (id : Word16) (b : Bool) (ops : List PortOp) (b' : Bool) : Prop where
  legal : sinkUseLegal id b ops = true
  after : sinkOpenAfter id b ops = b'

section
variable {id : Word16} {b b' b'' : Bool} {ops ops' : List PortOp} {x : Slot}

/-- Two stretches of operations. -/
theorem SinkRun.append (h : SinkRun id b ops b') (g : SinkRun id b' ops' b'') : SinkRun id b (ops ++ ops') b'' where
  legal := by rw [sinkUseLegal_append, h.legal, h.after, g.legal, Bool.and_self]
  after := by rw [sinkOpenAfter_append, h.after, g.after]

/-- Operations on other sinks and at other ports. -/
theorem sinkRun_of_other (h : ∀ o ∈ ops, o.sinkId ≠ some id) : SinkRun id b ops b := by
  induction ops with
  | nil => exact ⟨rfl, rfl⟩
  | cons o rest ih =>
    obtain ⟨other, later⟩ := List.forall_mem_cons.mp h
    obtain ⟨legal, after⟩ := ih later
    cases o with
    | tx | srcRead => exact ⟨legal, after⟩
    | sinkOpen j | sinkClose j | sinkWrite j | sinkFlush j =>
      have ne : j ≠ id := fun e => other (congrArg some e)
      exact ⟨by simp [sinkUseLegal, ne, legal], by simp [sinkOpenAfter, ne, after]⟩

/-! ### The sink of the slot served -/

/-- The operations of an event that serves the slot with the sink `id`: they are on no other sink, and use this one in
order. -/
structure SlotRun (id : Word16) (b : Bool) (ops : List PortOp) (b' : Bool) : Prop where
  own : ∀ o ∈ ops, o.sinkId = none ∨ o.sinkId = some id
  run : SinkRun id b ops b'

/-- Two stretches of operations. -/
theorem SlotRun.append (h : SlotRun id b ops b') (g : SlotRun id b' ops' b'') : SlotRun id b (ops ++ ops') b'' where
  own := fun o ho => (List.mem_append.mp ho).elim (h.own o) (g.own o)
  run := h.run.append g.run

/-- The sink of any other id. -/
theorem SlotRun.other (h : SlotRun id b ops b') {j : Word16} (hj : j ≠ id) : SinkRun j b'' ops b'' :=
  sinkRun_of_other fun o ho e => by
    rcases h.own o ho with none | own
    · exact nomatch none.symm.trans e
    · exact hj (Option.some.inj (e.symm.trans own))

/-- No operation. -/
theorem slotRun_nil : SlotRun id b [] b := ⟨nofun, rfl, rfl⟩

/-- A transmission (R284). -/
theorem slotRun_tx {d : List Byte} {dest : Nat} : SlotRun id b [.tx d dest] b :=
  ⟨fun o ho => by cases List.mem_singleton.mp ho; exact .inl rfl, rfl, rfl⟩

/-- The sink of a new slot, closed before (R234, R290). -/
theorem slotRun_open : SlotRun id false [.sinkOpen id] true :=
  ⟨fun o ho => by cases List.mem_singleton.mp ho; exact .inr rfl, by simp [sinkUseLegal], by simp [sinkOpenAfter]⟩

/-- `close_sink` closes a sink that is open and leaves one that is closed (R246, R291). -/
theorem slotRun_closeOps (hid : x.sinkOpen = true → x.connId = id) : SlotRun id x.sinkOpen (closeOps x) false := by
  unfold closeOps
  cases ho : x.sinkOpen with
  | false => exact slotRun_nil
  | true =>
    rw [if_pos rfl, hid ho]
    exact ⟨fun o ho => by cases List.mem_singleton.mp ho; exact .inr rfl, by simp [sinkUseLegal],
      by simp [sinkOpenAfter]⟩

/-- Delivery writes payload that is not empty, and flushes, to an open sink (R239, R289, R291). -/
theorem slotRun_deliveryOps (hid : x.connId = id) (seq : Word32) (payload : List Byte) :
    SlotRun id true (deliveryOps x seq payload) true := by
  unfold deliveryOps
  split
  · rename_i h
    obtain ⟨-, full⟩ := h
    rw [hid]
    exact ⟨by simp [PortOp.sinkId], by simp [sinkUseLegal, full], rfl⟩
  · exact slotRun_nil

end

/-! ### The open bits of the table -/

section
variable {s : State} {id : Word16} {n : Nat}

/-- In a table that meets its invariants an open sink is that of a slot in use, whose id is above its index (R42, R47,
R49). -/
theorem TableInv.connId_of_sinkOpen (h : TableInv s) (hn : n < s.slots.length) (ho : (s.slot n).sinkOpen = true) :
    (s.slot n).inUse = true ∧ (s.slot n).connId.toNat = n + 1 := by
  cases used : (s.slot n).inUse with
  | true => exact ⟨rfl, h.connId_of_inUse hn used⟩
  | false =>
    obtain ⟨free, -⟩ := h.2 n hn
    rw [free used] at ho
    cases ho

/-- The table holds the sink of an id open in the slot below the id, if at all (R42, R47). -/
theorem TableInv.tableSinkOpen_iff (h : TableInv s) :
    tableSinkOpen s id = true ↔ ∃ n < s.slots.length, id.toNat = n + 1 ∧ (s.slot n).sinkOpen = true := by
  simp only [tableSinkOpen, List.any_eq_true, Bool.and_eq_true, beq_iff_eq]
  constructor
  · rintro ⟨x, hx, ho, rfl⟩
    obtain ⟨n, hn, rfl⟩ := List.mem_iff_getElem.mp hx
    rw [← State.slot_of_lt hn] at ho ⊢
    obtain ⟨-, hid⟩ := h.connId_of_sinkOpen hn ho
    exact ⟨n, hn, hid, ho⟩
  · rintro ⟨n, hn, hid, ho⟩
    obtain ⟨-, hid'⟩ := h.connId_of_sinkOpen hn ho
    exact ⟨s.slot n, State.slot_of_lt hn ▸ List.getElem_mem hn, ho, BitVec.eq_of_toNat_eq (hid'.trans hid.symm)⟩

/-- The open bit of the slot below an id says whether the sink of the id is open (R47). -/
theorem TableInv.tableSinkOpen_eq (h : TableInv s) (hn : n < s.slots.length) (hid : id.toNat = n + 1) :
    tableSinkOpen s id = (s.slot n).sinkOpen := by
  rw [Bool.eq_iff_iff, h.tableSinkOpen_iff]
  refine ⟨?_, fun ho => ⟨n, hn, hid, ho⟩⟩
  rintro ⟨m, -, hm, ho⟩
  have same : m = n := by omega
  exact same ▸ ho

/-- A write of one slot leaves the open bits of every other id (R42, R47). -/
theorem tableSinkOpen_of_set {t : State} {x : Slot} (hs : TableInv s) (ht : TableInv t)
    (slots : t.slots = s.slots.set n x) (hid : id.toNat ≠ n + 1) : tableSinkOpen t id = tableSinkOpen s id := by
  have other : ∀ m, id.toNat = m + 1 → t.slot m = s.slot m := fun m hm => by
    have written := State.setSlot_slot_other s n m x (by omega)
    rwa [State.slot, State.setSlot_slots, ← slots] at written
  have length : t.slots.length = s.slots.length := by rw [slots, List.length_set]
  rw [Bool.eq_iff_iff, ht.tableSinkOpen_iff, hs.tableSinkOpen_iff, length]
  refine exists_congr fun m => and_congr_right fun _ => and_congr_right fun hm => ?_
  rw [other m hm]

end

/-! ### What an event does with the sinks -/

/-- From `s` to `t` every sink is used in order, and the table says of each before and after whether it is open. -/
def InSinkOrder (s t : State) : Prop :=
  ∃ ops, t.io.trace = s.io.trace ++ ops ∧ ∀ id, SinkRun id (tableSinkOpen s id) ops (tableSinkOpen t id)

/-- From `s` to `t` no sink is used and the table stands. -/
structure SinksUntouched (s t : State) : Prop where
  slots : t.slots = s.slots
  issued : Issues (fun o => o.sinkId = none) s t

section
variable {s t u : State}

/-- Two changes in a row. -/
theorem InSinkOrder.trans (h : InSinkOrder s t) (g : InSinkOrder t u) : InSinkOrder s u := by
  obtain ⟨ops, trace, run⟩ := h
  obtain ⟨ops', trace', run'⟩ := g
  exact ⟨ops ++ ops', by rw [trace', trace, List.append_assoc], fun id => (run id).append (run' id)⟩

/-- A change of neither the table nor the trace. -/
theorem SinksUntouched.of_eq (slots : t.slots = s.slots) (trace : t.io.trace = s.io.trace) : SinksUntouched s t :=
  ⟨slots, .of_trace_eq trace⟩

/-- Two changes in a row. -/
theorem SinksUntouched.trans (h : SinksUntouched s t) (g : SinksUntouched t u) : SinksUntouched s u :=
  ⟨g.slots.trans h.slots, h.issued.trans g.issued⟩

/-- Sinks that are not used are used in order. -/
theorem SinksUntouched.inSinkOrder (h : SinksUntouched s t) : InSinkOrder s t := by
  obtain ⟨ops, trace, silent⟩ := h.issued
  refine ⟨ops, trace, fun id => ?_⟩
  rw [tableSinkOpen, tableSinkOpen, h.slots]
  exact sinkRun_of_other fun o ho e => nomatch (silent o ho).symm.trans e

/-- A packet that leaves slot `n` written and its operations issued; `u` is the rest of the state. -/
theorem inSinkOrder_of_slotRun {n : Nat} {x : Slot} {ops : List PortOp} {id : Word16} (hs : TableInv s)
    (ht : TableInv (slotLeft n x ops u)) (hn : n < s.slots.length) (hid : id.toNat = n + 1)
    (slots : u.slots = s.slots) (trace : u.io.trace = s.io.trace) (h : SlotRun id (s.slot n).sinkOpen ops x.sinkOpen) :
    InSinkOrder s (slotLeft n x ops u) := by
  have written : (slotLeft n x ops u).slots = s.slots.set n x := by rw [slotLeft_slots, slots]
  refine ⟨ops, congrArg (· ++ ops) trace, fun j => ?_⟩
  by_cases own : j = id
  · subst own
    have hn' : n < u.slots.length := slots ▸ hn
    rw [hs.tableSinkOpen_eq hn hid, ht.tableSinkOpen_eq (by rwa [slotLeft_slots, List.length_set]) hid,
      slotLeft_slot hn']
    exact h.run
  · rw [tableSinkOpen_of_set hs ht written fun e => own (BitVec.eq_of_toNat_eq (e.trans hid.symm))]
    exact h.other own

/-! ### The initiator -/

/-- An event of the initiator uses no sink: its rules read the source and transmit (R184, R204). -/
theorem initiatorSim_sinksUntouched (s : State) :
    InitiatorSim (fun u u' => u' = u ∧ SinksUntouched s u) (fun t _ => SinksUntouched s t) where
  same := by rintro u _ ⟨rfl, -⟩; exact ⟨rfl, rfl, rfl, rfl, rfl, rfl⟩
  setNow n := by rintro ⟨rfl, h⟩; exact ⟨rfl, h.trans (.of_eq rfl rfl)⟩
  setC c := by rintro ⟨rfl, h⟩; exact ⟨rfl, h.trans (.of_eq rfl rfl)⟩
  setP p := by rintro ⟨rfl, h⟩; exact ⟨rfl, h.trans (.of_eq rfl rfl)⟩
  takeDraw := by rintro u _ ⟨rfl, h⟩; exact ⟨rfl, h.trans (.of_eq rfl rfl)⟩
  drop b := by rintro ⟨rfl, h⟩; exact ⟨rfl, h.trans (.of_eq rfl rfl)⟩
  srcRead off len := by rintro ⟨rfl, h⟩; exact ⟨rfl, h.trans ⟨rfl, .emit rfl⟩⟩
  silent h := h.2
  txOrDie k := by
    rintro ⟨rfl, h⟩
    refine h.trans ⟨(txOrDie_frame k _).slots, (txOrDie_issues k _).mono ?_⟩
    rintro o rfl
    rfl

/-- `E_START` uses no sink (R186, R254). -/
theorem eventStart_sinksUntouched (s : State) : SinksUntouched s (eventStart s) := by
  cases hr : s.role with
  | initiator => exact (initiatorSim_sinksUntouched s).eventStart ⟨rfl, .of_eq rfl rfl⟩ hr
  | responder => rw [eventStart_responder hr]; exact .of_eq rfl rfl

/-- `E_TICK` uses no sink: a responder's slots do not expire at a tick (R168, R170, R250). -/
theorem eventTick_sinksUntouched (s : State) : SinksUntouched s (eventTick s) := by
  cases hr : s.role with
  | initiator => exact (initiatorSim_sinksUntouched s).eventTick ⟨rfl, .of_eq rfl rfl⟩ hr
  | responder => rw [eventTick_responder hr]; exact .of_eq rfl rfl

/-- `E_RXERR` uses no sink (R208, R254). -/
theorem eventRxErr_sinksUntouched (s : State) : SinksUntouched s (eventRxErr s) := by
  unfold eventRxErr
  split
  · split <;> exact .of_eq rfl rfl
  · exact .of_eq rfl rfl

/-- A packet of a reserved kind uses no sink (R150). -/
theorem receiveReserved_sinksUntouched (s : State) : SinksUntouched s (receiveReserved s) := by
  refine .of_eq ?_ (congrArg Ports.trace (receiveReserved_io s))
  rw [receiveReserved, refreshActivity_eq]
  rfl

/-! ### The responder -/

/-- DATA or ACK (R236 to R242): the sink of the slot is open until a FIN has been observed (R47). -/
theorem responderData_inSinkOrder (hq : s.params.Wf) (hs : TableInv s) (pureAck : Bool) (seq ack : Word32)
    (id : Word16) (b : List Byte) : InSinkOrder s (responderData pureAck seq ack id b s) := by
  have ht := (responderData_event pureAck seq ack id b s).tableInv hq hs
  cases hl : lookupSlot s id with
  | none =>
    rw [responderData_missed hl]
    exact (SinksUntouched.of_eq rfl rfl).inSinkOrder
  | some n =>
    obtain ⟨hn, used, connId⟩ := lookupSlot_some hl
    obtain ⟨hid, -, -⟩ := hs.of_lookupSlot hl
    obtain ⟨-, -, -, sink⟩ := (hs.2 n hn).2 used
    have close : SlotRun id (s.slot n).sinkOpen (closeOps (s.slot n)) false := slotRun_closeOps fun _ => connId
    cases hfin : (s.slot n).finObserved with
    | true =>
      rw [responderData_closing hl hfin] at ht ⊢
      cases pureAck with
      | false =>
        rw [closingSlot_data hn] at ht ⊢
        exact inSinkOrder_of_slotRun hs ht hn hid rfl rfl close
      | true =>
        rw [closingSlot_ack hn] at ht ⊢
        exact inSinkOrder_of_slotRun hs ht hn hid rfl rfl close
    | false =>
      have isOpen : (s.slot n).sinkOpen = true := by rw [sink, hfin]; rfl
      have deliver : SlotRun id (s.slot n).sinkOpen (deliveryOps (s.slot n) seq b) (s.slot n).sinkOpen :=
        isOpen.symm ▸ slotRun_deliveryOps connId seq b
      cases ho : txOutcome s with
      | ok =>
        rw [responderData_ok hl hfin ho] at ht ⊢
        exact inSinkOrder_of_slotRun hs ht hn hid rfl rfl (deliver.append slotRun_tx)
      | fail =>
        rw [responderData_fail hl hfin ho] at ht ⊢
        exact inSinkOrder_of_slotRun hs ht hn hid rfl rfl ((deliver.append slotRun_tx).append close)

/-- A FIN (R243 to R245): whatever its replies come to, the sink is closed in the end. -/
theorem responderFin_inSinkOrder (hq : s.params.Wf) (hs : TableInv s) (seq : Word32) (id : Word16) :
    InSinkOrder s (responderFin seq id s) := by
  have ht := (responderFin_event seq id s).tableInv hq hs
  cases hl : lookupSlot s id with
  | none =>
    rw [responderFin_missed hl]
    exact (SinksUntouched.of_eq rfl rfl).inSinkOrder
  | some n =>
    obtain ⟨hn, -, connId⟩ := lookupSlot_some hl
    obtain ⟨hid, -, -⟩ := hs.of_lookupSlot hl
    have close : SlotRun id (s.slot n).sinkOpen (closeOps (s.slot n)) false := slotRun_closeOps fun _ => connId
    cases ho : txOutcome s with
    | fail =>
      rw [responderFin_first_fails hl ho] at ht ⊢
      exact inSinkOrder_of_slotRun hs ht hn hid rfl rfl (slotRun_tx.append close)
    | ok =>
      have replies : ∀ {d d' : List Byte} {dest dest' : Nat},
          SlotRun id (s.slot n).sinkOpen ([.tx d dest, .tx d' dest'] ++ closeOps (s.slot n)) false :=
        (slotRun_tx.append slotRun_tx).append close
      cases ho' : s.io.txResults.tail.head with
      | fail =>
        rw [responderFin_second_fails hl ho ho'] at ht ⊢
        exact inSinkOrder_of_slotRun hs ht hn hid rfl rfl replies
      | ok =>
        rw [responderFin_both_ok hl ho ho'] at ht ⊢
        exact inSinkOrder_of_slotRun hs ht hn hid rfl rfl replies

/-- A slot that is reclaimed has its sink closed if it is open (R234, R246): an open sink is that of a slot in use. -/
theorem TableInv.reclaimOps_eq {n : Nat} (hs : TableInv s) (hn : n < s.slots.length) :
    reclaimOps (s.slot n) = closeOps (s.slot n) := by
  unfold reclaimOps closeOps
  refine if_congr (and_iff_right_of_imp fun ho => ?_) rfl rfl
  obtain ⟨used, -⟩ := hs.connId_of_sinkOpen hn ho
  exact used

/-- A SYN (R233 to R235): the old sink of the slot is closed before the new one, of the same id, is opened. -/
theorem responderSyn_inSinkOrder (hq : s.params.Wf) (hs : TableInv s) (seq : Word32) :
    InSinkOrder s (responderSyn seq s) := by
  have ht := (responderSyn_event seq s).tableInv hq hs
  cases hf : findCandidate s with
  | none =>
    rw [responderSyn_full hf]
    exact (SinksUntouched.of_eq rfl rfl).inSinkOrder
  | some n =>
    obtain ⟨hn, -, -⟩ := findCandidate_some hf
    obtain ⟨-, bound, -⟩ := hq
    have hid : (BitVec.ofNat 16 (n + 1)).toNat = n + 1 := by
      rw [BitVec.toNat_ofNat, Nat.mod_eq_of_lt (by have := hs.1; omega)]
    have close : SlotRun (BitVec.ofNat 16 (n + 1)) (s.slot n).sinkOpen (reclaimOps (s.slot n)) false := by
      rw [hs.reclaimOps_eq hn]
      refine slotRun_closeOps fun ho => BitVec.eq_of_toNat_eq ?_
      obtain ⟨-, connId⟩ := hs.connId_of_sinkOpen hn ho
      exact connId.trans hid.symm
    cases ho : txOutcome s with
    | ok =>
      rw [responderSyn_ok hf ho] at ht ⊢
      exact inSinkOrder_of_slotRun hs ht hn hid rfl rfl (close.append (slotRun_open.append slotRun_tx))
    | fail =>
      rw [responderSyn_fail hf ho] at ht ⊢
      exact inSinkOrder_of_slotRun hs ht hn hid rfl rfl
        (close.append (slotRun_open.append (slotRun_tx.append
          (slotRun_closeOps (x := newSlot n seq s) fun _ => rfl))))

/-! ### Every event -/

/-- The execution of a packet. -/
theorem exec_inSinkOrder {i : Instr} (hq : s.params.Wf) (hs : TableInv s) (h : exec i s = .next t) :
    InSinkOrder s t := by
  cases hr : s.role with
  | initiator => exact ((initiatorSim_sinksUntouched s).exec ⟨rfl, .of_eq rfl rfl⟩ hr i h h).inSinkOrder
  | responder =>
    rcases exec_responder_cases hr h with ⟨_, _, _, _, _, rfl⟩ | ⟨_, rfl⟩ | ⟨_, _, rfl⟩ | rfl
    · exact responderData_inSinkOrder hq hs _ _ _ _ _
    · exact responderSyn_inSinkOrder hq hs _
    · exact responderFin_inSinkOrder hq hs _ _
    · exact (SinksUntouched.of_eq rfl rfl).inSinkOrder

/-- Every step other than a reset. -/
theorem step_inSinkOrder (henv : EnvWf s) (hs : TableInv s) (h : step s = .next t)
    (hreset : arbitrate (takeTurn s).io ≠ some .reset) : InSinkOrder s t := by
  have clear : ∀ e, SinksUntouched s (served e s) := fun e => .of_eq (served_frame e s).slots (served_frame e s).trace
  rcases step_cases h with ⟨-, rfl⟩ | ⟨ha, -⟩ | ⟨-, rfl⟩ | ⟨-, rfl⟩ | ⟨-, rfl⟩ | ⟨d, -, hrx⟩
  · exact (SinksUntouched.of_eq (takeTurn_frame s).slots (takeTurn_frame s).trace).inSinkOrder
  · exact absurd ha hreset
  · exact ((clear _).trans (eventRxErr_sinksUntouched _)).inSinkOrder
  · exact ((clear _).trans (eventStart_sinksUntouched _)).inSinkOrder
  · exact ((clear _).trans (eventTick_sinksUntouched _)).inSinkOrder
  · have noted : SinksUntouched s (noteTruncation d (served (.rx d) s)) :=
      (clear _).trans (.of_eq (noteTruncation_output d _).slots (congrArg Ports.trace (noteTruncation_io d _)))
    have loaded : ∀ k, SinksUntouched s (loadRxp k d.peer (noteTruncation d (served (.rx d) s))) :=
      fun k => noted.trans (.of_eq rfl rfl)
    rcases hrx with ⟨-, rfl⟩ | ⟨-, rfl⟩ | ⟨k, -, rfl⟩ | ⟨k, i, -, -, -, he⟩
    · exact noted.inSinkOrder
    · exact (noted.trans (.of_eq rfl rfl)).inSinkOrder
    · exact ((loaded k).trans (receiveReserved_sinksUntouched _)).inSinkOrder
    · obtain ⟨straps, -⟩ := loaded_frame k d.peer d (.rx d) s
      have params : (loadRxp k d.peer (noteTruncation d (served (.rx d) s))).params = s.params :=
        (congrArg Straps.params straps).trans (takeTurn_params s)
      have table := hs.congr params (loaded k).slots
      exact (loaded k).inSinkOrder.trans (exec_inSinkOrder (params.symm ▸ henv.1) table he)

end

/-- Settles O53 (R246, R289 to R291). -/
theorem sinksAreUsedInOrder : Obligations.SinksAreUsedInOrder := by
  intro s t id henv hs h hreset
  obtain ⟨ops, trace, run⟩ := step_inSinkOrder henv hs h hreset
  rw [issuedOps_of_trace trace]
  exact ⟨(run id).legal, (run id).after.symm⟩

end Sys2Proof.Machine
end

section
/-! The arbiter and what is pended (R321, R322). The step serves the pending request of highest priority. The event it
serves leaves every other request standing: of what stands at the ports an event only consumes the answers of `Tx` and
`RngDraw()` and appends to the trace. -/

namespace Sys2Proof.Machine

/-! ### The arbiter's choice -/

section
variable {io : Ports}

/-- `E_RESET` comes first (R322). -/
theorem arbitrate_reset (reset : io.resetReq = true) : arbitrate io = some .reset := if_pos reset

/-- `E_RXERR` comes second (R322). -/
theorem arbitrate_rxErr (noReset : io.resetReq = false) (rxErr : io.rxErr = true) : arbitrate io = some .rxErr := by
  simp [arbitrate, noReset, rxErr]

variable (noReset : io.resetReq = false) (noRxErr : io.rxErr = false)
include noReset noRxErr

/-- The first datagram comes third (R322). -/
theorem arbitrate_rx {d : Datagram} {rest : List Datagram} (rx : io.rx = d :: rest) :
    arbitrate io = some (.rx d) := by
  simp [arbitrate, noReset, noRxErr, rx]

variable (noRx : io.rx = [])
include noRx

/-- `E_START` comes fourth (R322). -/
theorem arbitrate_start (start : io.start ≠ 0) : arbitrate io = some .start := by
  simp [arbitrate, noReset, noRxErr, noRx, start]

/-- `E_TICK` comes last (R322). -/
theorem arbitrate_tick (noStart : io.start = 0) (tick : io.ticks ≠ 0) : arbitrate io = some .tick := by
  simp [arbitrate, noReset, noRxErr, noRx, noStart, tick]

/-- With nothing pending the arbiter chooses nothing (R334). -/
theorem arbitrate_none (noStart : io.start = 0) (noTick : io.ticks = 0) : arbitrate io = none := by
  simp [arbitrate, noReset, noRxErr, noRx, noStart, noTick]

end

/-- When the arbiter chooses nothing, neither a reset nor a receive failure stands. -/
theorem quiet_of_arbitrate_none {io : Ports} (h : arbitrate io = none) : io.resetReq = false ∧ io.rxErr = false := by
  cases hr : io.resetReq with
  | true => exact nomatch (arbitrate_reset hr).symm.trans h
  | false =>
    cases he : io.rxErr with
    | true => exact nomatch (arbitrate_rxErr hr he).symm.trans h
    | false => exact ⟨rfl, rfl⟩

section
variable {s t : State} {e : Event}

/-- A step with nothing pending (R334, log 17). -/
theorem step_of_arbitrate_none (h : arbitrate (takeTurn s).io = none) : step s = .next (takeTurn s) := by
  have fetched : fetchEvent s = .done (takeTurn s) := by rw [fetchEvent, h]
  rw [step, fetched]

/-- A step whose event is complete when it has been served. -/
theorem step_of_serve_done (ha : arbitrate (takeTurn s).io = some e) (h : serve e (served e s) = .done t) :
    step s = .next t := by
  have fetched : fetchEvent s = .done t := by rw [fetchEvent, ha]; exact h
  rw [step, fetched]

end

/-- Settles O38 (R322; log 2, 6, 7, 17). -/
theorem stepServesByPriority : Obligations.StepServesByPriority := by
  intro s u
  refine ⟨fun reset => ?_, fun noReset => ⟨fun rxErr => ?_, fun noRxErr => ⟨fun d rest rx => ?_, fun noRx =>
    ⟨fun start => ?_, fun noStart => ⟨fun tick => ?_, fun noTick => ?_⟩⟩⟩⟩⟩
  · exact step_of_serve_done (arbitrate_reset reset) rfl
  · exact step_of_serve_done (arbitrate_rxErr noReset rxErr) rfl
  · exact arbitrate_rx noReset noRxErr rx
  · exact step_of_serve_done (arbitrate_start noReset noRxErr noRx start) rfl
  · exact step_of_serve_done (arbitrate_tick noReset noRxErr noRx noStart tick) rfl
  · exact step_of_arbitrate_none (arbitrate_none noReset noRxErr noRx noStart noTick)

/-! ### What an event leaves at the ports -/

/-- From `s` to `t` everything at the ports stands but what an event itself consumes and produces: the answers of `Tx`
and `RngDraw()` and the trace. -/
def PendingKept (s t : State) : Prop :=
  t.io = { s.io with draws := t.io.draws, txResults := t.io.txResults, trace := t.io.trace }

section
variable {s t u : State}

/-- The ports stay as they are. -/
theorem PendingKept.of_io_eq (h : t.io = s.io) : PendingKept s t := by rw [PendingKept, h]

/-- A state is related to itself. -/
theorem PendingKept.refl (s : State) : PendingKept s s := rfl

/-- Two changes in a row. -/
theorem PendingKept.trans (h : PendingKept s t) (g : PendingKept t u) : PendingKept s u := by
  unfold PendingKept at h g ⊢
  rw [g, h]

end

/-- `Tx(ENCODE(k), dest)`, whatever it answers (R284, R285). -/
theorem transmit_pendingKept (k : Packet) (dest : Nat) (s : State) : PendingKept s (transmit k dest s).2 := by
  by_cases fits : k.payload.length ≤ s.params.maxPayload
  · rw [transmit_fits fits]
    rfl
  · rw [transmit_refused (Nat.not_le.mp fits)]
    rfl

/-- `tx_or_die`, whose failure writes no port (R204). -/
theorem txOrDie_pendingKept (k : Packet) (s : State) : PendingKept s (txOrDie k s) := by
  have sent := transmit_pendingKept k s.c.peerAddr s
  unfold txOrDie
  split
  · rename_i t h; rwa [h] at sent
  · rename_i t h; rw [h] at sent; exact sent.trans (.of_io_eq rfl)

/-! ### The initiator -/

/-- No event of the initiator serves a further request (R321). -/
theorem initiatorSim_pendingKept (s : State) :
    InitiatorSim (fun u u' => u' = u ∧ PendingKept s u) (fun t _ => PendingKept s t) where
  same := by rintro u _ ⟨rfl, -⟩; exact ⟨rfl, rfl, rfl, rfl, rfl, rfl⟩
  setNow n := by rintro ⟨rfl, h⟩; exact ⟨rfl, h⟩
  setC c := by rintro ⟨rfl, h⟩; exact ⟨rfl, h⟩
  setP p := by rintro ⟨rfl, h⟩; exact ⟨rfl, h⟩
  takeDraw := by rintro u _ ⟨rfl, h⟩; exact ⟨rfl, h.trans rfl⟩
  drop b := by rintro ⟨rfl, h⟩; exact ⟨rfl, h⟩
  srcRead off len := by rintro ⟨rfl, h⟩; exact ⟨rfl, h.trans rfl⟩
  silent h := h.2
  txOrDie k := by rintro ⟨rfl, h⟩; exact h.trans (txOrDie_pendingKept k _)

/-! ### The responder -/

section
variable {s : State}

/-- DATA or ACK (R236 to R242). -/
theorem responderData_pendingKept (pureAck : Bool) (seq ack : Word32) (id : Word16) (b : List Byte) :
    PendingKept s (responderData pureAck seq ack id b s) := by
  cases hl : lookupSlot s id with
  | none => rw [responderData_missed hl]; rfl
  | some n =>
    obtain ⟨hn, -, -⟩ := lookupSlot_some hl
    cases hfin : (s.slot n).finObserved with
    | true =>
      rw [responderData_closing hl hfin]
      cases pureAck with
      | false => rw [closingSlot_data hn]; rfl
      | true => rw [closingSlot_ack hn]; rfl
    | false =>
      cases ho : txOutcome s with
      | ok => rw [responderData_ok hl hfin ho]; rfl
      | fail => rw [responderData_fail hl hfin ho]; rfl

/-- A SYN (R233 to R235). -/
theorem responderSyn_pendingKept (seq : Word32) : PendingKept s (responderSyn seq s) := by
  cases hf : findCandidate s with
  | none => rw [responderSyn_full hf]; rfl
  | some n =>
    cases ho : txOutcome s with
    | ok => rw [responderSyn_ok hf ho]; rfl
    | fail => rw [responderSyn_fail hf ho]; rfl

/-- A FIN (R243 to R245). -/
theorem responderFin_pendingKept (seq : Word32) (id : Word16) : PendingKept s (responderFin seq id s) := by
  cases hl : lookupSlot s id with
  | none => rw [responderFin_missed hl]; rfl
  | some n =>
    cases ho : txOutcome s with
    | fail => rw [responderFin_first_fails hl ho]; rfl
    | ok =>
      cases ho' : s.io.txResults.tail.head with
      | fail => rw [responderFin_second_fails hl ho ho']; rfl
      | ok => rw [responderFin_both_ok hl ho ho']; rfl

end

/-! ### Every event -/

section
variable {s t : State}

/-- The execution of a packet. -/
theorem exec_pendingKept {i : Instr} (h : exec i s = .next t) : PendingKept s t := by
  cases hr : s.role with
  | initiator => exact (initiatorSim_pendingKept s).exec ⟨rfl, .refl s⟩ hr i h h
  | responder =>
    rcases exec_responder_cases hr h with ⟨_, _, _, _, _, rfl⟩ | ⟨_, rfl⟩ | ⟨_, _, rfl⟩ | rfl
    · exact responderData_pendingKept _ _ _ _ _
    · exact responderSyn_pendingKept _
    · exact responderFin_pendingKept _ _
    · exact .of_io_eq rfl

/-- `E_START` (R186, R254). -/
theorem eventStart_pendingKept (s : State) : PendingKept s (eventStart s) := by
  cases hr : s.role with
  | initiator => exact (initiatorSim_pendingKept s).eventStart ⟨rfl, .refl s⟩ hr
  | responder => rw [eventStart_responder hr]; exact .refl s

/-- `E_TICK` (R168, R170). -/
theorem eventTick_pendingKept (s : State) : PendingKept s (eventTick s) := by
  cases hr : s.role with
  | initiator => exact (initiatorSim_pendingKept s).eventTick ⟨rfl, .refl s⟩ hr
  | responder => rw [eventTick_responder hr]; exact .of_io_eq rfl

/-- `E_RXERR` (R208, R254). -/
theorem eventRxErr_pendingKept (s : State) : PendingKept s (eventRxErr s) := by
  unfold eventRxErr
  split
  · split <;> exact .of_io_eq rfl
  · exact .of_io_eq rfl

/-- A step either finds nothing pending or serves one event, and what is then at the ports is what the clearing of its
request left (R321). That a reset leaves it too is log 7. -/
theorem step_pendingKept (h : step s = .next t) :
    (arbitrate (takeTurn s).io = none ∧ t = takeTurn s) ∨
      ∃ e, arbitrate (takeTurn s).io = some e ∧ PendingKept (served e s) t := by
  rcases step_cases h with idle | ⟨ha, rfl⟩ | ⟨ha, rfl⟩ | ⟨ha, rfl⟩ | ⟨ha, rfl⟩ | ⟨d, ha, hrx⟩
  · exact .inl idle
  · exact .inr ⟨_, ha, .of_io_eq rfl⟩
  · exact .inr ⟨_, ha, eventRxErr_pendingKept _⟩
  · exact .inr ⟨_, ha, eventStart_pendingKept _⟩
  · exact .inr ⟨_, ha, eventTick_pendingKept _⟩
  · refine .inr ⟨_, ha, ?_⟩
    have noted : PendingKept (served (.rx d) s) (noteTruncation d (served (.rx d) s)) :=
      .of_io_eq (noteTruncation_io d _)
    rcases hrx with ⟨-, rfl⟩ | ⟨-, rfl⟩ | ⟨k, -, rfl⟩ | ⟨k, i, -, -, -, he⟩
    · exact noted
    · exact noted.trans (.of_io_eq rfl)
    · exact noted.trans (.of_io_eq (receiveReserved_io _))
    · exact noted.trans (exec_pendingKept (s := loadRxp k d.peer _) he)

end

/-- Settles O56 (R281, R293, R321; log 6, 7). -/
theorem stepPendsOnlyDatagramsStartsAndTicks : Obligations.StepPendsOnlyDatagramsStartsAndTicks := by
  intro s t h u e
  rcases step_pendingKept h with ⟨idle, rfl⟩ | ⟨x, chosen, kept⟩
  · obtain ⟨noReset, noRxErr⟩ := quiet_of_arbitrate_none idle
    have nothing : e = none := idle
    rw [nothing]
    exact ⟨noReset, noRxErr, nofun, fun _ => rfl, rfl, rfl, rfl, rfl, rfl⟩
  · obtain ⟨noReset, noRxErr⟩ := clearRequest_arbitrated chosen
    have ports : t.io = { clearRequest x u.io with
        draws := t.io.draws, txResults := t.io.txResults, trace := t.io.trace } := kept
    have event : e = some x := chosen
    rw [event, ports]
    refine ⟨noReset, noRxErr, ?_⟩
    cases x with
    | rx d => exact ⟨fun _ _ => rfl, fun other => absurd rfl (other d), rfl, rfl, rfl, rfl, rfl⟩
    | reset | rxErr | start | tick => exact ⟨nofun, fun _ => rfl, rfl, rfl, rfl, rfl, rfl⟩

end Sys2Proof.Machine
end
